-- ==== Sys2Proof/Word.lean ====
section
/-! DEFINITION. The word types of TSCODEC: the command word, the operand and result ports, register values (rules R7, R60). -/

namespace Sys2Proof

/-- The 8-bit Config value and the 8-bit value field V of ENC_CFG (rules R29, R63). -/
abbrev Byte := BitVec 8

/-- The 16-bit command word CMD and the 16-bit raw temperature value (rules R25, R28). -/
abbrev Word16 := BitVec 16

/-- The 32-bit operand words A and B, the result word R, and a binary32 pattern (rules R12, R25). -/
abbrev Word32 := BitVec 32

end Sys2Proof
end

