-- ==== Sys2Proof/Config.lean ====
section
/-! DEFINITION. What is fixed for the life of one TSCODEC block: the device profile and the scale (rules R7, R20), and the open host parameters (rules R41, R43). The tables over them are in Sys2Proof/Machine/Profile.lean. -/

namespace Sys2Proof

/-- The device profile, "immutable, one per supported variant" (rules R2, R20, R21). -/
inductive Profile where
  | base
  | varA
  | varB
  | varC
  deriving DecidableEq, Repr

/-- The optional capabilities of a profile (rule R7, CAPS). -/
inductive Capability where
  | setIdleTime
  | clearAlert
  deriving DecidableEq, Repr

/-- The construction parameters of a TSCODEC block (rules R7, R20, R35).
TB, CAPS and the constants of rule R15 are functions of them.
FB is an overridable parameter of its own (rule R8), so it stands beside the profile. -/
structure Params where
  /-- PROFILE. -/
  profile : Profile
  /-- FRAC_BITS (FB); legal values are 0 to TB - 1 (`Params.WF`). -/
  fracBits : Nat
  deriving DecidableEq, Repr

/-- The logical device registers (rule R21). `low` is Thyst / T_LOW and `high` is Tos / T_HIGH. -/
inductive RegName where
  | temp
  | config
  | low
  | high
  | tidle
  deriving DecidableEq, Repr

/-- HOST_BYTE_ORDER, an OPEN host parameter (rule R43). -/
inductive ByteOrder where
  | msbFirst
  | lsbFirst
  deriving DecidableEq, Repr

/-- REG_ADDR, an OPEN host parameter: the 8-bit address of each device register (rule R41). -/
structure RegAddrs where
  temp : Byte
  config : Byte
  low : Byte
  high : Byte
  tidle : Byte
  deriving DecidableEq, Repr

end Sys2Proof
end

