-- ==== Sys2Proof/Machine/Profile.lean ====
section
/-! DEFINITION. The profile table (rule R21) and the constants derived from it (rules R7, R15, R22, R100). -/

namespace Sys2Proof

/-- TEMP_BITS (TB), rule R21. -/
def Profile.tempBits : Profile → Nat
  | .base => 9
  | .varA => 9
  | .varB => 11
  | .varC => 13

/-- The default of FRAC_BITS, TB - 8 (rules R7, R8). -/
def Profile.defaultFracBits (p : Profile) : Nat := p.tempBits - 8

/-- CAPS, rule R21. -/
def Profile.caps : Profile → List Capability
  | .base => []
  | .varA => [.setIdleTime]
  | .varB => []
  | .varC => [.clearAlert]

/-- The registers of the profile's device, rule R21. -/
def Profile.registers : Profile → List RegName
  | .base => [.temp, .config, .low, .high]
  | .varA => [.temp, .config, .low, .high, .tidle]
  | .varB => [.temp, .config, .low, .high]
  | .varC => [.temp, .config, .low, .high]

/-- has_alert: CLEAR_ALERT is among the capabilities (rule R21). -/
def Profile.hasAlert (p : Profile) : Bool := p.caps.contains .clearAlert

/-- The parameters of a profile at its default scale (rule R7). -/
def Profile.params (p : Profile) : Params := { profile := p, fracBits := p.defaultFracBits }

namespace Params

/-- TB of the block. -/
def tempBits (p : Params) : Nat := p.profile.tempBits

/-- has_alert of the block. -/
def hasAlert (p : Params) : Bool := p.profile.hasAlert

/-- SH, the left-justification shift (rule R15). -/
def shift (p : Params) : Nat := 16 - p.tempBits

/-- NMIN (rule R15). -/
def nMin (p : Params) : Int := -2 ^ (p.tempBits - 1)

/-- NMAX (rule R15). -/
def nMax (p : Params) : Int := 2 ^ (p.tempBits - 1) - 1

/-- TMASK: the bits of a raw value that hold the temperature field (rule R15). -/
def tMask (p : Params) : Word16 := BitVec.ofNat 16 ((2 ^ p.tempBits - 1) <<< p.shift)

/-- RAW_MAX (rule R15). -/
def rawMax (p : Params) : Word16 := BitVec.ofInt 16 (p.nMax * 2 ^ p.shift)

/-- RAW_MIN (rule R15). -/
def rawMin (p : Params) : Word16 := BitVec.ofInt 16 (p.nMin * 2 ^ p.shift)

/-- NAMED: the bits of a Config value that DEC_CFG reports (rule R100). -/
def namedMask (p : Params) : Byte := if p.hasAlert then 0x3F else 0x1F

end Params

end Sys2Proof
end

