-- ==== Sys2Proof/Machine/Bits.lean ====
section
/-! DEFINITION. Integer and bit-field notation of the spec: sext, trunc, clamp and rounding half away from zero (rules R10, R11). -/

namespace Sys2Proof.Machine

/-- sext_n(v): the two's-complement value of the n-bit field v (rule R10). -/
def sext (n v : Nat) : Int := if v.testBit (n - 1) then (v : Int) - 2 ^ n else v

/-- trunc_n(i): the n-bit pattern of an integer (rule R10). -/
def trunc (n : Nat) (i : Int) : Nat := (i % 2 ^ n).toNat

/-- clamp(n, lo, hi) (rule R10). -/
def clamp (n lo hi : Int) : Int := min hi (max lo n)

/-- round_half_away of the rational num / den, den > 0 (rules R11, R82): sign(q) * floor(|q| + 1/2), and
|q| + 1/2 is (2 |num| + den) / (2 den). -/
def roundHalfAway (num : Int) (den : Nat) : Int :=
  num.sign * (((2 * num.natAbs + den) / (2 * den) : Nat) : Int)

/-- Nearest integer to num / den with ties to even, den > 0 (IEEE 754's default rounding, used by rules R70 and R91). -/
def roundHalfEven (num den : Nat) : Nat :=
  let q := num / den
  let r := num % den
  if 2 * r < den then q else if den < 2 * r then q + 1 else q + q % 2

end Sys2Proof.Machine
end

