-- ==== Sys2Proof/Machine/Float32.lean ====
section
/-! DEFINITION. binary32 patterns (rule R12): classes, the exact value, the pattern of a fixed-point value, and rounding to the nearest pattern. -/

namespace Sys2Proof.Machine

/-- The sign, bit 31 (rule R12). -/
def f32Sign (b : Word32) : Bool := b.getLsbD 31

/-- The exponent field, bits 30:23 (rule R12). -/
def f32Exp (b : Word32) : Nat := (b.extractLsb' 23 8).toNat

/-- The fraction field, bits 22:0 (rule R12). -/
def f32Frac (b : Word32) : Nat := (b.extractLsb' 0 23).toNat

/-- isNaN32 (rule R12). -/
def isNaN32 (b : Word32) : Bool := f32Exp b == 0xFF && f32Frac b != 0

/-- isInf32 (rule R12). -/
def isInf32 (b : Word32) : Bool := f32Exp b == 0xFF && f32Frac b == 0

/-- A pattern that is neither a NaN nor an infinity. -/
def isFinite32 (b : Word32) : Bool := !(isNaN32 b || isInf32 b)

/-- The magnitude of a finite pattern in units of 2^(-149), the smallest subnormal: every finite value is a
whole number of those units, so `f32Units` is the exact value val32 of rule R12. -/
def f32MagUnits (b : Word32) : Nat :=
  if f32Exp b = 0 then f32Frac b else (2 ^ 23 + f32Frac b) * 2 ^ (f32Exp b - 1)

/-- val32 of a finite pattern in units of 2^(-149); both zeros have value 0 (rule R12). -/
def f32Units (b : Word32) : Int := if f32Sign b then -(f32MagUnits b : Int) else f32MagUnits b

/-- The number of units in 1. -/
def f32One : Nat := 2 ^ 149

/-- bits32 of the exactly representable value n * 2^(-fb) (rules R12, R89); n = 0 gives +0.
With m = |n| and k = floor(log2 m), the value is 1.f * 2^(k - fb). -/
def f32OfFixed (n : Int) (fb : Nat) : Word32 :=
  if n = 0 then 0
  else
    let m := n.natAbs
    let k := m.log2
    BitVec.ofNat 32 ((if n < 0 then 2 ^ 31 else 0) + (127 + k - fb) * 2 ^ 23 + (m * 2 ^ (23 - k) - 2 ^ 23))

/-- The binary32 pattern nearest to ±(num / den), ties to even, overflow to ±infinity.
In units of 2^(-149) the value has its last place at 2^u, so that its pattern is u * 2^23 plus the rounded
significand; a carry out of the significand moves the exponent by itself. -/
def f32Nearest (neg : Bool) (num den : Nat) : Word32 :=
  let w := num * f32One
  let u := (w / den).log2 - 23
  let mag := u * 2 ^ 23 + roundHalfEven w (den * 2 ^ u)
  BitVec.ofNat 32 ((if neg then 2 ^ 31 else 0) + min 0x7F800000 mag)

end Sys2Proof.Machine
end

