-- ==== Sys2Proof/Machine/State.lean ====
section
/-! DEFINITION. The state of a TSCODEC block: its construction parameters and the words on its interface (rules R20, R25, R35, R140). -/

namespace Sys2Proof.Machine

/-- The 2-bit status S; its four codes are all named (rules R26, R120; the codes are `Status.code`). -/
inductive Status where
  | ok
  | invalidInput
  | unsupportedOperation
  | illegalCommand
  deriving DecidableEq, Repr

/-- A request: the command word and the two operand words (rules R13, R25, R60). -/
structure Request where
  cmd : Word16
  a : Word32
  b : Word32
  deriving DecidableEq, Repr

/-- A response: the result word R and the status S (rules R13, R25, R60). -/
structure Response where
  result : Word32
  status : Status
  deriving DecidableEq, Repr

/-- Everything the spec gives the block. There is no register file, program counter, memory, flag or
hidden state (rules R23, R24, R26, R33, R34, R40). -/
structure State where
  /-- PROFILE and FB, fixed at construction; no step changes them (rule R20). -/
  params : Params
  /-- The requests the host has issued and the block has not answered, in issue order (rules R24, R48).
  The first one is the request in progress. -/
  requests : List Request
  /-- The response the last step delivered, on the R and S ports; none where it delivered none (rules R25, R35). -/
  response : Option Response
  deriving DecidableEq, Repr

/-- The reasons a step can end in a fault: none. An error is a response status, never a trap or a stop, and
no request makes the block halt, hang or become stuck (rules R125, R150). -/
inductive Fault where
  deriving DecidableEq, Repr

/-- The reasons a step can end in a refusal. -/
inductive Refusal where
  /-- An instruction whose meaning is not modelled yet; raised by no arm of exec. Safe: the model stops. -/
  | notModelled (mnemonic : String)
  deriving DecidableEq, Repr

/-- The block after reset, constructed with the given parameters: no request in progress, no response pending (rules R35, R140). -/
def State.resetWith (p : Params) : State := { params := p, requests := [], response := none }

/-- The block after reset.
DESIGN CHOICE, unsafe (notes/assumptions/1.md): PROFILE has no default (rule R7). The profile here is BASE with FB = 1,
the one scale the source's worked example confirms (rule R8). -/
def State.reset : State := State.resetWith Profile.base.params

end Sys2Proof.Machine
end

