-- ==== Sys2Proof/Machine/Ops.lean ====
section
/-! DEFINITION. The operations every meaning is built from: delivering a response, raising a status, and the block with no request to serve. -/

namespace Sys2Proof.Machine

/-- A response with S = OK; a rule that ends without `raise` sets S to OK (rule R13). -/
def Response.done (r : Word32) : Response := { result := r, status := .ok }

/-- `raise <Status>`: R is zero and S the status; nothing else is produced (rules R13, R121).
This is all an error does: no control transfer, nothing saved, no vector, no return (rules R125, R126). -/
def Response.raise (st : Status) : Response := { result := 0, status := st }

/-- The block with no request to serve: it answers nothing, and no response is retained (rules R25, R150).
DEDUCED, safe (notes/assumptions/3.md). -/
def State.idle (s : State) : State := { s with response := none }

/-- Serve the request in progress: its response is the given function of the parameters and the request
words alone (rule R149), the request is consumed, and nothing else changes (rules R20, R45). -/
def State.serve (s : State) (f : Params → Request → Response) : State :=
  match s.requests with
  | [] => s.idle
  | q :: rest => { s with requests := rest, response := some (f s.params q) }

/-- A meaning: it always completes (rule R150). -/
def State.answer (s : State) (f : Params → Request → Response) : Host.Outcome State Fault Refusal :=
  .next (s.serve f)

/-- The response to an illegal command word, whatever A and B hold (rule R67). -/
def illegalCommandResponse (_ : Params) (_ : Request) : Response := .raise .illegalCommand

/-- What the block does with an illegal command word (rule R67). -/
def rejectCommand (s : State) : Host.Outcome State Fault Refusal := s.answer illegalCommandResponse

end Sys2Proof.Machine
end

