-- ==== Sys2Proof/Machine/Flags.lean ====
section
/-! DEFINITION. The status S, the block's only flag-like output (rules R26, R120): its codes, and the two gates that can set it. -/

namespace Sys2Proof.Machine

/-- The 2-bit code of a status (rule R120). -/
def Status.code : Status → BitVec 2
  | .ok => 0
  | .invalidInput => 1
  | .unsupportedOperation => 2
  | .illegalCommand => 3

/-- Raise INVALID_INPUT unless the operand check holds; the operand checks come last (rules R86, R87, R123). -/
def Response.requireValid (valid : Bool) (r : Response) : Response :=
  if valid then r else .raise .invalidInput

/-- Raise UNSUPPORTED_OPERATION unless the profile has CLEAR_ALERT (rules R104, R123). -/
def Response.requireAlert (p : Params) (r : Response) : Response :=
  if p.hasAlert then r else .raise .unsupportedOperation

end Sys2Proof.Machine
end

