-- ==== Sys2Proof/Machine/Operands.lean ====
section
/-! DEFINITION. Operand assembly (rule R65): which bits of A and B an operation reads. Bits not read are ignored. -/

namespace Sys2Proof.Machine

/-- A[15:0], the raw temperature value of DEC_TEMP. -/
def Request.raw (q : Request) : Word16 := q.a.extractLsb' 0 16

/-- A[31:0], the binary32 value of ENC_TEMP and the value v0 of ENC_PAIR. -/
def Request.v0 (q : Request) : Word32 := q.a

/-- B[31:0], the binary32 value v1 of ENC_PAIR; no other operation reads B. -/
def Request.v1 (q : Request) : Word32 := q.b

/-- A[7:0], the raw Config value of DEC_CFG, ENC_CFG and CHK_ALERT. -/
def Request.cfg (q : Request) : Byte := q.a.extractLsb' 0 8

end Sys2Proof.Machine
end

