-- ==== Sys2Proof/Machine/ConfigFields.lean ====
section
/-! DEFINITION. The configuration bit-field family: DEC_CFG, ENC_CFG and CHK_ALERT, and the snapshot record (rules R29, R32, R100 to R107). -/

namespace Sys2Proof.Machine

/-- The OS modes by name (rules R32, R106). The bit of each is `Mode.bit`. -/
inductive Mode where
  | comparator
  | interrupt
  deriving DecidableEq, Repr

/-- MODE 0 is COMPARATOR and 1 is INTERRUPT (rule R106, decision D15: a naming convention). -/
def Mode.bit : Mode → Bool
  | .comparator => false
  | .interrupt => true

/-- The name of a MODE bit. -/
def Mode.ofBit (b : Bool) : Mode := if b then .interrupt else .comparator

/-- The snapshot record of DEC_CFG (rule R32). `alert` is none where the profile has no CLEAR_ALERT, and 1 means latched. -/
structure Snapshot where
  shutdown : Bool
  mode : Mode
  osPolarity : Bool
  faultQueue : BitVec 2
  alert : Option Bool
  deriving DecidableEq, Repr

/-- The snapshot of a Config value: bit positions of rule R29, reserved bits ignored. -/
def Snapshot.ofConfig (p : Params) (c : Byte) : Snapshot where
  shutdown := c.getLsbD 0
  mode := .ofBit (c.getLsbD 1)
  osPolarity := c.getLsbD 2
  faultQueue := c.extractLsb' 3 2
  alert := if p.hasAlert then some (c.getLsbD 5) else none

/-- The packing of a snapshot into R (rules R66, R101): R[8] alert field valid, R[5] ALERT, R[4:3] FQ, R[2] POL, R[1] MODE, R[0] SD. -/
def Snapshot.pack (n : Snapshot) : Word32 :=
  0#23 ++ BitVec.ofBool n.alert.isSome ++ 0#2 ++ BitVec.ofBool (n.alert.getD false) ++ n.faultQueue
    ++ BitVec.ofBool n.osPolarity ++ BitVec.ofBool n.mode.bit ++ BitVec.ofBool n.shutdown

/-- The field mask M of an ENC_CFG (rule R64). -/
def fieldMask (uSd uMode uPol uFq : Bool) : Byte :=
  (if uSd then 0x01#8 else 0#8) ||| (if uMode then 0x02#8 else 0#8)
    ||| (if uPol then 0x04#8 else 0#8) ||| (if uFq then 0x18#8 else 0#8)

/-- The merge of ENC_CFG (rule R102): V where the mask is set, the current value elsewhere. -/
def mergeFields (c v m : Byte) : Byte := (c &&& ~~~m) ||| (v &&& m)

/-- The response of DEC_CFG (rule R101). -/
def decCfgResponse (p : Params) (q : Request) : Response :=
  .done (Snapshot.ofConfig p q.cfg).pack

/-- The response of ENC_CFG (rule R102); the same in every profile. -/
def encCfgResponse (uSd uMode uPol uFq : Bool) (v : Byte) (_ : Params) (q : Request) : Response :=
  .done (0#24 ++ mergeFields q.cfg v (fieldMask uSd uMode uPol uFq))

/-- The response of CHK_ALERT (rule R104). It clears nothing: the clearing is the device's, on the host's read (rule R45). -/
def chkAlertResponse (p : Params) (q : Request) : Response :=
  .requireAlert p (.done (0#31 ++ BitVec.ofBool (q.cfg.getLsbD 5)))

/-- DEC_CFG (rule R101). -/
def execDecCfg (s : State) : Host.Outcome State Fault Refusal := s.answer decCfgResponse

/-- ENC_CFG (rule R102). -/
def execEncCfg (uSd uMode uPol uFq : Bool) (v : Byte) (s : State) : Host.Outcome State Fault Refusal :=
  s.answer (encCfgResponse uSd uMode uPol uFq v)

/-- CHK_ALERT (rule R104). -/
def execChkAlert (s : State) : Host.Outcome State Fault Refusal := s.answer chkAlertResponse

end Sys2Proof.Machine
end

