-- ==== Sys2Proof/Machine/Temperature.lean ====
section
/-! DEFINITION. The temperature codec family: DEC_TEMP, ENC_TEMP and ENC_PAIR (rules R80 to R91). -/

namespace Sys2Proof.Machine

/-- The signed integer N that a raw value holds: its top TB bits, sign-extended; the padding is ignored (rules R80, R84). -/
def decN (p : Params) (raw : Word16) : Int := sext p.tempBits (raw.toNat >>> p.shift)

/-- N for the value x in units of 2^(-149): exact scaling by 2^FB, rounding half away from zero, saturation (rules R81 to R83). -/
def encN (p : Params) (x : Int) : Int :=
  clamp (roundHalfAway (x * 2 ^ p.fracBits) f32One) p.nMin p.nMax

/-- N as a raw value: left-justified two's complement, padding zero (rules R80, R90). -/
def packN (p : Params) (n : Int) : Word16 := BitVec.ofNat 16 (trunc p.tempBits n <<< p.shift)

/-- ENC_T of rule R81 for the value x in units of 2^(-149). -/
def encT (p : Params) (x : Int) : Word16 := packN p (encN p x)

/-- The response of DEC_TEMP (rule R85). -/
def decTempResponse (p : Params) (q : Request) : Response :=
  .done (f32OfFixed (decN p q.raw) p.fracBits)

/-- The response of ENC_TEMP (rule R86). -/
def encTempResponse (p : Params) (q : Request) : Response :=
  .requireValid (isFinite32 q.v0) (.done (0#16 ++ encT p (f32Units q.v0)))

/-- The response of ENC_PAIR (rule R87): the larger value in R[31:16], the smaller in R[15:0]. -/
def encPairResponse (p : Params) (q : Request) : Response :=
  .requireValid (isFinite32 q.v0 && isFinite32 q.v1)
    (.done (encT p (max (f32Units q.v0) (f32Units q.v1)) ++ encT p (min (f32Units q.v0) (f32Units q.v1))))

/-- DEC_TEMP (rule R85). -/
def execDecTemp (s : State) : Host.Outcome State Fault Refusal := s.answer decTempResponse

/-- ENC_TEMP (rule R86). -/
def execEncTemp (s : State) : Host.Outcome State Fault Refusal := s.answer encTempResponse

/-- ENC_PAIR (rule R87). -/
def execEncPair (s : State) : Host.Outcome State Fault Refusal := s.answer encPairResponse

/-- N as an implementation in binary32 computes it (rule R91): the product by 2^FB rounded to the nearest binary32,
a product of ±infinity saturating, then `roundf` (half away from zero) and the clamp. -/
def encNBinary32 (p : Params) (a : Word32) : Int :=
  let product := f32Nearest (f32Sign a) (f32MagUnits a * 2 ^ p.fracBits) f32One
  if isInf32 product then (if f32Sign product then p.nMin else p.nMax)
  else clamp (roundHalfAway (f32Units product) f32One) p.nMin p.nMax

end Sys2Proof.Machine
end

