-- ==== Sys2Proof/Syntax.lean ====
section
/-! DEFINITION. The operations of TSCODEC-1, one constructor per row of the opcode table (rules R3, R61). -/

namespace Sys2Proof

/-- A decoded command word. Operands stand in the request words A and B, not in the command (rule R60),
so only ENC_CFG carries fields (rule R63). SET_MODE is an ENC_CFG (rule R71). -/
inductive Instr where
  /-- DEC_TEMP, OP 0x1. -/
  | decTemp
  /-- ENC_TEMP, OP 0x2. -/
  | encTemp
  /-- ENC_PAIR, OP 0x3. -/
  | encPair
  /-- DEC_CFG, OP 0x4. -/
  | decCfg
  /-- ENC_CFG, OP 0x5: the update enables U_SD, U_MODE, U_POL, U_FQ, and the values V = CMD[15:8],
  laid out like a Config value. -/
  | encCfg (uSd uMode uPol uFq : Bool) (v : Byte)
  /-- CHK_ALERT, OP 0x6. -/
  | chkAlert
  deriving DecidableEq, Repr

end Sys2Proof
end

