-- ==== Sys2Proof/Machine/Dispatch.lean ====
section
/-! DEFINITION. The dispatch of an instruction to its meaning. -/

namespace Sys2Proof.Machine

-- One arm per row of the opcode table (rule R61).
def exec (i : Instr) (s : State) : Host.Outcome State Fault Refusal :=
  match i with
  | .decTemp => Sys2Proof.Machine.execDecTemp s
  | .encTemp => Sys2Proof.Machine.execEncTemp s
  | .encPair => Sys2Proof.Machine.execEncPair s
  | .decCfg => Sys2Proof.Machine.execDecCfg s
  | .encCfg uSd uMode uPol uFq v => Sys2Proof.Machine.execEncCfg uSd uMode uPol uFq v s
  | .chkAlert => Sys2Proof.Machine.execChkAlert s

end Sys2Proof.Machine
end

