-- ==== Sys2Proof/WellFormed.lean ====
section
/-! DEFINITION. The checks on an instruction and on the construction parameters. -/

namespace Sys2Proof

/-- An instruction has an encoding: V_RSV = V[7:5] is zero in an ENC_CFG (rules R63, R67). -/
def Instr.wellFormed : Instr → Bool
  | .decTemp => true
  | .encTemp => true
  | .encPair => true
  | .decCfg => true
  | .encCfg _ _ _ _ v => v.extractLsb' 5 3 == 0#3
  | .chkAlert => true

/-- The construction parameters are admissible: 0 ≤ FB ≤ TB - 1 (rule R7). -/
abbrev Params.WF (p : Params) : Prop := p.fracBits ≤ p.tempBits - 1

end Sys2Proof
end

