-- ==== Sys2Proof/Decode.lean ====
section
/-! DEFINITION. The decoder of command words, total and rejecting by name (rules R61 to R69), and the encoder. -/

namespace Sys2Proof

/-- Why a command word is illegal: the three cases of rule R67. Each gives ILLEGAL_COMMAND. -/
inductive Reject where
  /-- R67 (a): OP is 0x0 or 0x7 to 0xF. -/
  | illegalOpcode (op : BitVec 4)
  /-- R67 (b): CMD[15:4] is not zero where it must be. -/
  | nonzeroUpperBits (upper : BitVec 12)
  /-- R67 (c): CMD[15:13] of an ENC_CFG is not zero. -/
  | reservedValueBits (rsv : BitVec 3)
  deriving DecidableEq, Repr

/-- OP = CMD[3:0] (rule R60). -/
def opField (cmd : Word16) : BitVec 4 := cmd.extractLsb' 0 4

/-- CMD[15:4], zero for every operation except ENC_CFG (rule R62). -/
def upperField (cmd : Word16) : BitVec 12 := cmd.extractLsb' 4 12

/-- V = CMD[15:8] (rule R63). -/
def valueField (cmd : Word16) : Byte := cmd.extractLsb' 8 8

/-- V_RSV = CMD[15:13] (rule R63). -/
def reservedField (cmd : Word16) : BitVec 3 := cmd.extractLsb' 13 3

/-- An operation whose CMD[15:4] must be zero (rule R62). -/
def decodePlain (cmd : Word16) (i : Instr) : Except Reject Instr :=
  if upperField cmd = 0 then .ok i else .error (.nonzeroUpperBits (upperField cmd))

/-- ENC_CFG (rule R63). -/
def decodeEncCfg (cmd : Word16) : Except Reject Instr :=
  if reservedField cmd = 0 then
    .ok (.encCfg (cmd.getLsbD 4) (cmd.getLsbD 5) (cmd.getLsbD 6) (cmd.getLsbD 7) (valueField cmd))
  else
    .error (.reservedValueBits (reservedField cmd))

/-- The decoder: every command word is one operation with its fields, or is rejected by name (rules R61, R67, R69). -/
def decode (cmd : Word16) : Except Reject Instr :=
  match (opField cmd).toNat with
  | 1 => decodePlain cmd .decTemp
  | 2 => decodePlain cmd .encTemp
  | 3 => decodePlain cmd .encPair
  | 4 => decodePlain cmd .decCfg
  | 5 => decodeEncCfg cmd
  | 6 => decodePlain cmd .chkAlert
  | _ => .error (.illegalOpcode (opField cmd))

/-- The instruction the decoder reads from a word of the opcode table: one 16-bit command word, bit 0 least significant. -/
def decodeTableWord (nbits w : Nat) : Option Instr :=
  (decode (BitVec.ofNat 16 (w % 2 ^ nbits))).toOption

/-- The match and the mask of an instruction's row of the opcode table (rule R61). -/
def tableRow : Instr → Word16 × Word16
  | .decTemp => (0x0001, 0xFFFF)
  | .encTemp => (0x0002, 0xFFFF)
  | .encPair => (0x0003, 0xFFFF)
  | .decCfg => (0x0004, 0xFFFF)
  | .encCfg _ _ _ _ _ => (0x0005, 0xE00F)
  | .chkAlert => (0x0006, 0xFFFF)

/-- The command word of a well-formed instruction: OP, then U in bits 7:4 and V in bits 15:8 (rules R61, R63, R70). -/
def encode : Instr → Word16
  | .decTemp => 0x0001
  | .encTemp => 0x0002
  | .encPair => 0x0003
  | .decCfg => 0x0004
  | .encCfg uSd uMode uPol uFq v =>
    v ++ BitVec.ofBool uFq ++ BitVec.ofBool uPol ++ BitVec.ofBool uMode ++ BitVec.ofBool uSd ++ 0x5#4
  | .chkAlert => 0x0006

end Sys2Proof
end

