-- ==== Sys2Proof/Machine/Fetch.lean ====
section
/-! DEFINITION. Where the block takes its next command from: the request in progress, the first one the host has issued (rules R24, R48). -/

namespace Sys2Proof.Machine

/-- The command word of the request in progress; none where there is no request. -/
def State.fetch (s : State) : Option Word16 :=
  match s.requests with
  | [] => none
  | q :: _ => some q.cmd

/-- Make `cmd` the command word of the request in progress, keeping its operand words; where there is no request,
issue one with both operand words zero, as an assembler writes unused operand words (rule R70). -/
def State.withCommand (s : State) (cmd : Word16) : State :=
  match s.requests with
  | [] => { s with requests := [{ cmd := cmd, a := 0, b := 0 }] }
  | q :: rest => { s with requests := { q with cmd := cmd } :: rest }

end Sys2Proof.Machine
end

