-- ==== Sys2Proof/Machine/Step.lean ====
section
/-! DEFINITION. One step: the block answers the request in progress (rules R48, R123, R149). -/

namespace Sys2Proof.Machine

/-- One step. The command word is checked first (rule R123): an illegal one is answered with ILLEGAL_COMMAND,
which is a next state and not a refusal (rule R19). With no request issued the block is idle. -/
def step (s : State) : Host.Outcome State Fault Refusal :=
  match s.fetch with
  | none => .next s.idle
  | some cmd =>
    match Sys2Proof.decode cmd with
    | .error _ => rejectCommand s
    | .ok i => exec i s

/-- `s` with the given word as the command the next step runs. The host issues requests, so this stands for the
host's issue of one; a program comes from outside the block (notes/assumptions/2.md). -/
def State.withFetchWord (s : State) (nbits w : Nat) : State :=
  s.withCommand (BitVec.ofNat 16 (w % 2 ^ nbits))

end Sys2Proof.Machine
end

