-- ==== Sys2Proof/Machine/Assembler.lean ====
section
/-! DEFINITION. The assembly lines of TSCODEC-1 and the requests they stand for, SET_MODE among them (rules R70 to R72, R103). -/

namespace Sys2Proof.Machine

/-- A `<float>` of rule R70: a pattern, or an optionally signed decimal literal digits * 10^(-scale). -/
inductive FloatLit where
  | pattern (bits : Word32)
  | decimal (neg : Bool) (digits scale : Nat)
  deriving DecidableEq, Repr

/-- The operand word of a `<float>`: a decimal literal is "converted to the nearest binary32 with ties to even". -/
def FloatLit.bits : FloatLit → Word32
  | .pattern b => b
  | .decimal neg digits scale => f32Nearest neg digits (10 ^ scale)

/-- One assembly line (rule R70), by its operands; a field not named on an ENC_CFG line is none. -/
inductive AsmLine where
  | decTemp (raw : Word16)
  | encTemp (x : FloatLit)
  | encPair (x y : FloatLit)
  | decCfg (c : Byte)
  | encCfg (c : Byte) (sd mode pol : Option Bool) (fq : Option (BitVec 2))
  | chkAlert (c : Byte)
  | setMode (c : Byte) (m : Mode)
  deriving DecidableEq, Repr

/-- V of an ENC_CFG line: the named values at their Config positions, zero elsewhere (rules R63, R70). -/
def fieldValues (sd mode pol : Option Bool) (fq : Option (BitVec 2)) : Byte :=
  0#3 ++ fq.getD 0 ++ BitVec.ofBool (pol.getD false) ++ BitVec.ofBool (mode.getD false) ++ BitVec.ofBool (sd.getD false)

/-- SET_MODE is the ENC_CFG that names MODE alone (rule R71). -/
def AsmLine.expand : AsmLine → AsmLine
  | .setMode c m => .encCfg c none (some m.bit) none none
  | l => l

/-- The operation of a line. -/
def AsmLine.instr : AsmLine → Instr
  | .decTemp _ => .decTemp
  | .encTemp _ => .encTemp
  | .encPair _ _ => .encPair
  | .decCfg _ => .decCfg
  | .encCfg _ sd mode pol fq => .encCfg sd.isSome mode.isSome pol.isSome fq.isSome (fieldValues sd mode pol fq)
  | .chkAlert _ => .chkAlert
  | .setMode _ m => .encCfg false true false false (fieldValues none (some m.bit) none none)

/-- The operand words of a line; unused ones are zero (rule R70). -/
def AsmLine.operands : AsmLine → Word32 × Word32
  | .decTemp raw => (raw.setWidth 32, 0)
  | .encTemp x => (x.bits, 0)
  | .encPair x y => (x.bits, y.bits)
  | .decCfg c => (c.setWidth 32, 0)
  | .encCfg c _ _ _ _ => (c.setWidth 32, 0)
  | .chkAlert c => (c.setWidth 32, 0)
  | .setMode c _ => (c.setWidth 32, 0)

/-- The request a line stands for (rules R70, R71). -/
def assemble (l : AsmLine) : Request :=
  { cmd := Sys2Proof.encode l.expand.instr, a := l.operands.1, b := l.operands.2 }

/-- The mode a disassembler may print a command word as SET_MODE with (rule R71). -/
def setModeOf (cmd : Word16) : Option Mode :=
  if cmd = 0x0025 then some .comparator else if cmd = 0x0225 then some .interrupt else none

end Sys2Proof.Machine
end

