-- ==== Sys2Proof/Machine/Respond.lean ====
section
/-! DEFINITION. The response as one function of the parameters and the request words (rule R149). -/

namespace Sys2Proof.Machine

/-- The response of a decoded operation to the operand words of a request. -/
def respondTo (i : Instr) (p : Params) (q : Request) : Response :=
  match i with
  | .decTemp => decTempResponse p q
  | .encTemp => encTempResponse p q
  | .encPair => encPairResponse p q
  | .decCfg => decCfgResponse p q
  | .encCfg uSd uMode uPol uFq v => encCfgResponse uSd uMode uPol uFq v p q
  | .chkAlert => chkAlertResponse p q

/-- The response to any request: "a total, deterministic function of (PROFILE, FB, CMD, A, B)" (rules R19, R149). -/
def respond (p : Params) (q : Request) : Response :=
  match Sys2Proof.decode q.cmd with
  | .error _ => illegalCommandResponse p q
  | .ok i => respondTo i p q

end Sys2Proof.Machine
end

