-- ==== Sys2Proof/Machine/System.lean ====
section
/-! DEFINITION. The host and the sensor device around the block: register transfers, and the host operations of rule R151.
The spec's scope leaves the bus wiring out of the block (rule R6), and `step` uses nothing of this file. What the spec
leaves open about the device is read from `System.choices`, one entry an access; a statement over every list of choices
holds for every device (rules R31, R45, notes/assumptions/6.md, 7.md and 15.md). What an access leaves unchanged is the model's choice (notes/assumptions/16.md). -/

namespace Sys2Proof.Machine

/-- What one transport access leaves open. -/
structure Choice where
  /-- The transfer fails with TransportError (rule R124; any value, I17). -/
  fails : Bool
  /-- The bits of the access that no rule gives: a sampled temperature, padding, reserved bits, the ALERT left by a
  Config access. -/
  word : Word16
  /-- The device sets its ALERT latch between this access and the next (`Device.latch`). -/
  latches : Bool
  deriving DecidableEq, Repr

/-- The registers of the sensor device (rules R27 to R30). Their contents at power-on are any value (rule R31). -/
structure Device where
  temp : Word16
  config : Byte
  low : Word16
  high : Word16
  tidle : Byte
  deriving DecidableEq, Repr

/-- A transfer on the device register space, as the transport sees it (rules R14, R41). -/
inductive Transfer where
  | read (addr : Byte) (count : Nat)
  | write (addr : Byte) (data : List Byte)
  deriving DecidableEq, Repr

/-- The host, the block and the device. -/
structure System where
  block : State
  device : Device
  /-- HOST_BYTE_ORDER (rule R43). -/
  byteOrder : ByteOrder
  /-- REG_ADDR (rule R41). -/
  regAddrs : RegAddrs
  /-- The assumed device property that named Config fields and temperature fields read back as written (I6). -/
  keepsFields : Bool
  /-- What the accesses to come leave open, first access first. -/
  choices : List Choice
  /-- The transfers so far, newest first (rule R53). -/
  transfers : List Transfer
  deriving DecidableEq, Repr

/-- How a host operation ends: a value, or one of the error kinds reported to the caller (rules R120, R124, R151). -/
inductive HostResult (α : Type) where
  | value (x : α)
  | error (st : Status)
  | transportError
  deriving DecidableEq, Repr

/-- The address of a register (rule R41). -/
def regAddr (m : RegAddrs) : RegName → Byte
  | .temp => m.temp
  | .config => m.config
  | .low => m.low
  | .high => m.high
  | .tidle => m.tidle

/-- The bytes of a register: 2 for a temperature register, 1 for Config and Tidle (rule R42). -/
def regWidth : RegName → Nat
  | .temp => 2
  | .low => 2
  | .high => 2
  | .config => 1
  | .tidle => 1

/-- Bits of x where the mask is set, bits of y elsewhere. -/
def pick16 (mask x y : Word16) : Word16 := (x &&& mask) ||| (y &&& ~~~mask)

/-- Bits of x where the mask is set, bits of y elsewhere. -/
def pick8 (mask x y : Byte) : Byte := (x &&& mask) ||| (y &&& ~~~mask)

/-- The low byte of a 16-bit value. -/
def lowByte (v : Word16) : Byte := v.extractLsb' 0 8

/-- The high byte of a 16-bit value. -/
def highByte (v : Word16) : Byte := v.extractLsb' 8 8

/-- The bytes of a register value, first transferred first (rules R42, R43). -/
def toBytes (o : ByteOrder) (r : RegName) (v : Word16) : List Byte :=
  if regWidth r = 1 then [lowByte v]
  else match o with
    | .msbFirst => [highByte v, lowByte v]
    | .lsbFirst => [lowByte v, highByte v]

/-- The value the host assembles from transferred bytes: its duty under HOST_BYTE_ORDER (rule R43).
A register is moved as 1 or 2 bytes (rule R42), so the last case does not arise. -/
def ofBytes (o : ByteOrder) : List Byte → Word16
  | [x] => x.setWidth 16
  | [x, z] => match o with
    | .msbFirst => x ++ z
    | .lsbFirst => z ++ x
  | _ => 0

/-- The value a device register read gives, and the device after it.
Temp is sampled by the device, so it is any value at each read ("re-read each call"). The padding of a threshold register
is any value (I8), and so are the reserved bits of Config (I4). Where the profile has CLEAR_ALERT the read of Config clears
the latch, and the next ALERT is any value (rule R45, I7). A device may latch at other times too: `Device.latch`.
A read leaves all else as it was: Config bits 4:0, the thresholds and Tidle, whether or not the device keeps written fields.
DESIGN CHOICE, unsafe (notes/assumptions/16.md): the source does not give the device-side access of the fields (R29). -/
def Device.read (p : Params) (d : Device) (r : RegName) (free : Word16) : Word16 × Device :=
  match r with
  | .temp => (free, { d with temp := free })
  | .low => (pick16 p.tMask d.low free, d)
  | .high => (pick16 p.tMask d.high free, d)
  | .config =>
    let c := pick8 p.namedMask d.config (lowByte free)
    (c.setWidth 16, { d with config := if p.hasAlert then pick8 0x20 (highByte free) c else c })
  | .tidle => (d.tidle.setWidth 16, d)

/-- The device after a register write. Where it keeps fields, a temperature field and the named Config fields ENC_CFG can
change read back as written (I6). All else is any value: padding, bits 7:5 of Config (I4 to I6), and Temp and Tidle, whose
writes no rule describes. ALERT may also be set after the access: `Device.latch`.
The other registers are left as they were: DESIGN CHOICE, unsafe (notes/assumptions/16.md). -/
def Device.write (p : Params) (keeps : Bool) (d : Device) (r : RegName) (v free : Word16) : Device :=
  match r with
  | .temp => { d with temp := free }
  | .low => { d with low := if keeps then pick16 p.tMask v free else free }
  | .high => { d with high := if keeps then pick16 p.tMask v free else free }
  | .config => { d with config := if keeps then pick8 0x1F (lowByte v) (lowByte free) else lowByte free }
  | .tidle => { d with tidle := lowByte free }

/-- The device's own latching after an access: when a CLEAR_ALERT device sets ALERT is not in the spec (I7 speaks only of the
time after a Config read), so after any access, of any register, it may have set the latch or not.
DESIGN CHOICE, safe (notes/assumptions/15.md). -/
def Device.latch (p : Params) (d : Device) (sets : Bool) : Device :=
  if p.hasAlert && sets then { d with config := d.config ||| 0x20#8 } else d

/-- The next access's choice. -/
def System.choice (y : System) : Choice := y.choices.headD { fails := false, word := 0, latches := false }

/-- The transfer fails: the choice says so, or the profile's device has no such register ("address not present", rule R124). -/
def System.accessFails (y : System) (r : RegName) : Bool :=
  y.choice.fails || !(y.block.params.profile.registers.contains r)

/-- The system after the given transfer, which left the device as given. -/
def System.after (y : System) (t : Transfer) (d : Device) : System :=
  { y with device := d, choices := y.choices.tail, transfers := t :: y.transfers }

/-- HostRead(reg, n) (rules R14, R41, R42), the bytes assembled by the host. A failed read gives no value. -/
def System.hostRead (y : System) (r : RegName) : HostResult Word16 × System :=
  let vd := y.device.read y.block.params r y.choice.word
  let d := vd.2.latch y.block.params y.choice.latches
  let y' := y.after (.read (regAddr y.regAddrs r) (regWidth r)) d
  if y.accessFails r then (.transportError, y')
  else (.value (ofBytes y.byteOrder (toBytes y.byteOrder r vd.1)), y')

/-- HostWrite(reg, bytes) (rules R14, R41, R42). What a failed write leaves in the register is any value. -/
def System.hostWrite (y : System) (r : RegName) (v : Word16) : HostResult Unit × System :=
  let bytes := toBytes y.byteOrder r v
  let fails := y.accessFails r
  let d := y.device.write y.block.params (y.keepsFields && !fails) r (ofBytes y.byteOrder bytes) y.choice.word
  (if fails then .transportError else .value (),
    y.after (.write (regAddr y.regAddrs r) bytes) (d.latch y.block.params y.choice.latches))

/-- The host issues one request and takes its response; the block is as `step` leaves it (rules R25, R48). -/
def System.ask (y : System) (q : Request) : Response × System :=
  let r := respond y.block.params q
  (r, { y with block := { y.block with requests := [], response := some r } })

/-- Another bus master's writes of Config between two of the host's transfers: a race where no lock is held (rules R50, R145, I11). -/
def System.othersWrite (y : System) (cs : List Byte) : System :=
  { y with device := cs.foldl (fun d c => { d with config := c }) y.device }

/-- Use the result of a response only if S is OK (rule R146). -/
def useResult (a : Response × System) (k : Word32 → System → HostResult α × System) : HostResult α × System :=
  if a.1.status = .ok then k a.1.result a.2 else (.error a.1.status, a.2)

/-- Continue after a transfer only if it succeeded: the host does not retry (rule R124). -/
def andThen (r : HostResult β × System) (k : β → System → HostResult α × System) : HostResult α × System :=
  match r with
  | (.value x, y) => k x y
  | (.error st, y) => (.error st, y)
  | (.transportError, y) => (.transportError, y)

/-- `temperature()`, `read()`: one read of Temp, then DEC_TEMP (rules R53, R151). -/
def System.temperature (y : System) : HostResult Word32 × System :=
  andThen (y.hostRead .temp) fun raw y =>
    useResult (y.ask (assemble (.decTemp raw))) fun r y => (.value r, y)

/-- `set_thresholds(v0, v1)`: ENC_PAIR before any bus I/O, then one write each to the high and low registers, in either
order (rules R53, R146, R151, I15). -/
def System.setThresholds (y : System) (v0 v1 : Word32) (highFirst : Bool) : HostResult Unit × System :=
  useResult (y.ask (assemble (.encPair (.pattern v0) (.pattern v1)))) fun r y =>
    let high : Word16 := r.extractLsb' 16 16
    let low : Word16 := r.extractLsb' 0 16
    if highFirst then andThen (y.hostWrite .high high) fun _ y => y.hostWrite .low low
    else andThen (y.hostWrite .low low) fun _ y => y.hostWrite .high high

/-- Encode one temperature: no bus I/O (rule R151). -/
def System.encodeTemperature (y : System) (v : Word32) : HostResult Word16 × System :=
  useResult (y.ask (assemble (.encTemp (.pattern v)))) fun r y => (.value (r.extractLsb' 0 16), y)

/-- Read a snapshot: a fresh Config read, then DEC_CFG (rule R151). -/
def System.readSnapshot (y : System) : HostResult Word32 × System :=
  andThen (y.hostRead .config) fun c y =>
    useResult (y.ask (assemble (.decCfg (lowByte c)))) fun r y => (.value r, y)

/-- Change fields: a fresh Config read, ENC_CFG on that byte, then the write (rules R50, R144, R151). The line is made from
the byte read. `others` are the writes another master makes between the read and the write: none where the lock is held (rule R145). -/
def System.changeFields (y : System) (line : Byte → AsmLine) (others : List Byte) : HostResult Unit × System :=
  andThen (y.hostRead .config) fun c y =>
    useResult ((y.othersWrite others).ask (assemble (line (lowByte c)))) fun r y =>
      y.hostWrite .config (r.extractLsb' 0 16)

/-- `os_mode(m)`: change fields by SET_MODE (rules R71, R103, R151). -/
def System.osMode (y : System) (m : Mode) (others : List Byte) : HostResult Unit × System :=
  y.changeFields (fun c => .setMode c m) others

/-- `clear()`: one read of Config and no write, CHK_ALERT on the byte of that read (rules R53, R147, R151). -/
def System.clear (y : System) : HostResult Bool × System :=
  andThen (y.hostRead .config) fun c y =>
    useResult (y.ask (assemble (.chkAlert (lowByte c)))) fun r y => (.value (r.getLsbD 0), y)

end Sys2Proof.Machine
end

