-- ==== Sys2Proof/Machine/Rational.lean ====
section
/-! DEFINITION. The codec as the spec writes it, on exact rationals (rules R11, R12, R80 to R84). The meanings compute
on integers; statements say that the two agree. Nothing here is used by the step. -/

namespace Sys2Proof.Machine

/-- val32: the value of a finite binary32 pattern, in the usual form of IEEE 754 (rule R12). -/
def val32 (b : Word32) : ℚ :=
  (if f32Sign b then -1 else 1) *
    (if f32Exp b = 0 then (f32Frac b : ℚ) / 2 ^ 149
     else (1 + (f32Frac b : ℚ) / 2 ^ 23) * (2 : ℚ) ^ ((f32Exp b : ℤ) - 127))

/-- round_half_away(q) = sign(q) * floor(|q| + 1/2) (rule R11). -/
def roundHalfAwayQ (q : ℚ) : ℤ := (SignType.sign q : ℤ) * ⌊|q| + 1 / 2⌋

/-- STEP = 2^(-FB) (rule R15). -/
def stepQ (p : Params) : ℚ := 1 / 2 ^ p.fracBits

/-- The signed 16-bit value of a raw word, sext_16(raw) (rule R10). -/
def sext16 (raw : Word16) : ℤ := raw.toInt

/-- The integer ENC_T packs: round_half_away(x * 2^FB) clamped to [NMIN, NMAX] (rule R81). -/
def encNQ (p : Params) (x : ℚ) : ℤ := max p.nMin (min p.nMax (roundHalfAwayQ (x * 2 ^ p.fracBits)))

/-- ENC_T(x) on rationals (rule R81): N left-justified in 16 bits, as the 16-bit pattern of N * 2^SH. -/
def encTQ (p : Params) (x : ℚ) : Word16 := BitVec.ofInt 16 (encNQ p x * 2 ^ p.shift)

/-- DEC_T(raw) on rationals (rule R84): the arithmetic shift drops the padding and keeps the sign. -/
def decTQ (p : Params) (raw : Word16) : ℚ := ((raw.sshiftRight p.shift).toInt : ℚ) * stepQ p

end Sys2Proof.Machine
end

