-- ==== Sys2Proof/Safety.lean ====
section
/-! DEFINITION. What a sound state of the block is, and a run of it, in the terms the statements use. -/

namespace Sys2Proof.Machine

/-- A response the block can give at all with these parameters: R is zero unless S is OK (rule R121), and
UNSUPPORTED_OPERATION only without CLEAR_ALERT (rule R120). -/
abbrev Response.Coherent (p : Params) (r : Response) : Prop :=
  (r.status ≠ .ok → r.result = 0) ∧ (r.status = .unsupportedOperation → p.hasAlert = false)

/-- The invariant of a block: admissible parameters (rule R7), and a coherent response on the ports. -/
def State.Sound (s : State) : Prop :=
  s.params.WF ∧ ∀ r, s.response = some r → r.Coherent s.params

/-- The illegal command words, case by case as rule R67 lists them. -/
abbrev IllegalWord (cmd : Word16) : Prop :=
  (cmd.extractLsb' 0 4 = 0x0#4 ∨ 0x7#4 ≤ cmd.extractLsb' 0 4) ∨
  ((cmd.extractLsb' 0 4 = 0x1#4 ∨ cmd.extractLsb' 0 4 = 0x2#4 ∨ cmd.extractLsb' 0 4 = 0x3#4 ∨
      cmd.extractLsb' 0 4 = 0x4#4 ∨ cmd.extractLsb' 0 4 = 0x6#4) ∧ cmd.extractLsb' 4 12 ≠ 0#12) ∨
  (cmd.extractLsb' 0 4 = 0x5#4 ∧ cmd.extractLsb' 13 3 ≠ 0#3)

/-- The block after it has answered the request in progress with `r`, the requests `rest` still waiting, all else as it was. -/
def State.deliver (s : State) (rest : List Request) (r : Response) : State :=
  { s with requests := rest, response := some r }

/-- The raw value ENC_TEMP gives for a binary32 operand, R[15:0] (rule R66). -/
def encodedRaw (p : Params) (a : Word32) : Word16 :=
  (respond p { cmd := 0x0002, a := a, b := 0 }).result.extractLsb' 0 16

/-- The binary32 pattern DEC_TEMP gives for a raw value. -/
def decodedPattern (p : Params) (raw : Word16) : Word32 :=
  (respond p { cmd := 0x0001, a := raw.setWidth 32, b := 0 }).result

/-- R[7:0] of the ENC_CFG with update enables U and values V on the Config value c: ENC(c, U, V) of rule R105. -/
def mergedConfig (p : Params) (c : Byte) (u : BitVec 4) (v : BitVec 5) : Byte :=
  (respond p { cmd := 0#3 ++ v ++ u ++ 0x5#4, a := c.setWidth 32, b := 0 }).result.extractLsb' 0 8

/-- R of DEC_CFG on the Config value c. -/
def reportedConfig (p : Params) (c : Byte) : Word32 :=
  (respond p { cmd := 0x0004, a := c.setWidth 32, b := 0 }).result

/-- The state after `k` steps, where no step stops. -/
def stepN : Nat → State → Host.Outcome State Fault Refusal
  | 0, s => .next s
  | k + 1, s =>
    match step s with
    | .next t => stepN k t
    | .fault r => .fault r
    | .refused r => .refused r

end Sys2Proof.Machine
end

