-- ==== Sys2Proof/Certificates/Slice0/Obligations.lean ====
section
/-! DEFINITION. The statements for the provers. -/

open Sys2Proof Sys2Proof.Machine

/-! ## Reset, profiles and encodings -/

/-- R35, R140: reset leaves the construction parameters and nothing else, and the first request after it is served like
any other. -/
def Obligations.ResetKeepsOnlyConstructionParameters : Prop :=
  ∀ p : Params,
    (State.resetWith p).params = p ∧ (State.resetWith p).requests = [] ∧ (State.resetWith p).response = none ∧
    ∀ q : Request, step { State.resetWith p with requests := [q] } =
      .next ((State.resetWith p).deliver [] (respond p q))

/-- R21: the profile table. -/
def Obligations.ProfileTableValues : Prop :=
  (Profile.base.tempBits = 9 ∧ Profile.varA.tempBits = 9 ∧ Profile.varB.tempBits = 11 ∧ Profile.varC.tempBits = 13) ∧
  (Profile.base.defaultFracBits = 1 ∧ Profile.varA.defaultFracBits = 1 ∧
    Profile.varB.defaultFracBits = 3 ∧ Profile.varC.defaultFracBits = 5) ∧
  (Profile.base.registers = [.temp, .config, .low, .high] ∧
    Profile.varA.registers = [.temp, .config, .low, .high, .tidle] ∧
    Profile.varB.registers = [.temp, .config, .low, .high] ∧
    Profile.varC.registers = [.temp, .config, .low, .high]) ∧
  (Profile.base.caps = [] ∧ Profile.varA.caps = [.setIdleTime] ∧ Profile.varB.caps = [] ∧
    Profile.varC.caps = [.clearAlert]) ∧
  (∀ pr : Profile, (pr.hasAlert = true ↔ Capability.clearAlert ∈ pr.caps) ∧ (pr.hasAlert = true ↔ pr = .varC))

/-- The derived constants at the default FB, and the weight of a raw unit; the spec marks both as derived (R22, from R15 and
R28). -/
def Obligations.DerivedConstantsAtTheDefaultScale : Prop :=
  (∀ pr ∈ [Profile.base, Profile.varA], pr.params.shift = 7 ∧ stepQ pr.params = 0.5 ∧
    pr.params.nMin = -256 ∧ pr.params.nMax = 255 ∧ pr.params.tMask = 0xFF80 ∧ pr.params.rawMax = 0x7F80 ∧
    pr.params.rawMin = 0x8000 ∧ pr.params.nMin * stepQ pr.params = -128 ∧ pr.params.nMax * stepQ pr.params = 127.5) ∧
  (Profile.varB.params.shift = 5 ∧ stepQ Profile.varB.params = 0.125 ∧
    Profile.varB.params.nMin = -1024 ∧ Profile.varB.params.nMax = 1023 ∧ Profile.varB.params.tMask = 0xFFE0 ∧
    Profile.varB.params.rawMax = 0x7FE0 ∧ Profile.varB.params.rawMin = 0x8000 ∧
    Profile.varB.params.nMin * stepQ Profile.varB.params = -128 ∧
    Profile.varB.params.nMax * stepQ Profile.varB.params = 127.875) ∧
  (Profile.varC.params.shift = 3 ∧ stepQ Profile.varC.params = 0.03125 ∧
    Profile.varC.params.nMin = -4096 ∧ Profile.varC.params.nMax = 4095 ∧ Profile.varC.params.tMask = 0xFFF8 ∧
    Profile.varC.params.rawMax = 0x7FF8 ∧ Profile.varC.params.rawMin = 0x8000 ∧
    Profile.varC.params.nMin * stepQ Profile.varC.params = -128 ∧
    Profile.varC.params.nMax * stepQ Profile.varC.params = 127.96875) ∧
  (∀ (pr : Profile) (raw : Word16), raw.toNat % 2 ^ pr.params.shift = 0 →
    (sext16 raw : ℚ) = 256 * decTQ pr.params raw)

/-- R72: the nine encoding examples, as requests. -/
def Obligations.AssemblyExamplesGiveTheirWords : Prop :=
  assemble (.decTemp 0x1900) = ⟨0x0001, 0x00001900, 0⟩ ∧
  assemble (.encTemp (.decimal false 250 1)) = ⟨0x0002, 0x41C80000, 0⟩ ∧
  assemble (.encPair (.decimal false 100 1) (.decimal false 200 1)) = ⟨0x0003, 0x41200000, 0x41A00000⟩ ∧
  assemble (.decCfg 0x1A) = ⟨0x0004, 0x0000001A, 0⟩ ∧
  assemble (.encCfg 0x00 (some true) none none (some 2)) = ⟨0x1195, 0x00000000, 0⟩ ∧
  assemble (.encCfg 0xC0 (some false) (some Mode.interrupt.bit) (some true) (some 3)) = ⟨0x1EF5, 0x000000C0, 0⟩ ∧
  assemble (.encCfg 0x5A none none none none) = ⟨0x0005, 0x0000005A, 0⟩ ∧
  assemble (.setMode 0x18 .interrupt) = ⟨0x0225, 0x00000018, 0⟩ ∧
  assemble (.chkAlert 0x22) = ⟨0x0006, 0x00000022, 0⟩

/-- Words written out from rules R61 and R63 decode to the operations they stand for. -/
def Obligations.WrittenWordsDecode : Prop :=
  decode 0b0000000000000001 = .ok .decTemp ∧
  decode 0b0000000000000010 = .ok .encTemp ∧
  decode 0b0000000000000011 = .ok .encPair ∧
  decode 0b0000000000000100 = .ok .decCfg ∧
  decode 0b0000000000000110 = .ok .chkAlert ∧
  decode 0b0001000110010101 = .ok (.encCfg true false false true 0b00010001) ∧
  decode 0b0001111011110101 = .ok (.encCfg true true true true 0b00011110) ∧
  decode 0b0000001000100101 = .ok (.encCfg false true false false 0b00000010) ∧
  decode 0b0001111100000101 = .ok (.encCfg false false false false 0b00011111) ∧
  decode 0b0000000000000000 = .error (.illegalOpcode 0) ∧
  decode 0b0000000000010001 = .error (.nonzeroUpperBits 1) ∧
  decode 0b0010000000000101 = .error (.reservedValueBits 1)

/-- Decoding and encoding agree: a word decodes to `i` exactly where `i` is well formed and encodes to that word. -/
def Obligations.DecodeAndEncodeAgree : Prop :=
  ∀ (cmd : Word16) (i : Instr), decode cmd = .ok i ↔ (i.wellFormed = true ∧ encode i = cmd)

/-- Every word decodes to exactly one operation or is illegal, and no two rows of the opcode table match one word
(R69, which the spec marks as derived from R61 and R67). -/
def Obligations.OpcodeRowsPartitionTheLegalWords : Prop :=
  (∀ cmd : Word16, (∃ i, decode cmd = .ok i) ∨ IllegalWord cmd) ∧
  (∀ (cmd : Word16) (i : Instr), decode cmd = .ok i →
    ¬ IllegalWord cmd ∧ ∀ j : Instr, cmd &&& (tableRow j).2 = (tableRow j).1 ↔ tableRow j = tableRow i) ∧
  (∀ cmd : Word16, IllegalWord cmd → ∀ j : Instr, cmd &&& (tableRow j).2 ≠ (tableRow j).1)

/-- The illegal words, what they are answered with whatever A and B hold, and how many there are (R67, which the spec marks
as derived from R61 to R63). -/
def Obligations.IllegalWordsAreAnsweredIllegalCommand : Prop :=
  (∀ cmd : Word16, IllegalWord cmd ↔ ∃ e, decode cmd = .error e) ∧
  (∀ (s : State) (q : Request) (rest : List Request), s.requests = q :: rest → IllegalWord q.cmd →
    step s = .next (s.deliver rest ⟨0, .illegalCommand⟩)) ∧
  (∃ l : List Word16, l.Nodup ∧ l.length = 65019 ∧ ∀ cmd, cmd ∈ l ↔ IllegalWord cmd) ∧
  (∃ l : List Word16, l.Nodup ∧ l.length = 512 ∧
    ∀ cmd, cmd ∈ l ↔ ∃ uSd uMode uPol uFq v, decode cmd = .ok (.encCfg uSd uMode uPol uFq v)) ∧
  (∀ i ∈ [Instr.decTemp, .encTemp, .encPair, .decCfg, .chkAlert], ∃! cmd : Word16, decode cmd = .ok i)

/-! ## The step, runs and the invariant -/

/-- The step at a request whose command word decodes to a well-formed `i` is exec of `i` at that state, and nothing else. -/
def Obligations.StepRunsTheDecodedInstruction : Prop :=
  ∀ (s : State) (q : Request) (rest : List Request) (i : Instr),
    s.requests = q :: rest → decode q.cmd = .ok i → step s = exec i s

/-- With no request issued a step delivers no response and changes nothing else (the model's reading, log entry 3). -/
def Obligations.IdleStepDeliversNothing : Prop :=
  ∀ s : State, s.requests = [] → step s = .next { s with response := none }

/-- The response is a function of the parameters and the request words: two blocks that agree on them give the same
response, whatever else they hold (R149, which the spec marks as derived from R20 and R34). -/
def Obligations.ResponseDependsOnParametersAndRequestOnly : Prop :=
  ∀ (s t : State) (q : Request) (rs rt : List Request),
    s.params = t.params → s.requests = q :: rs → t.requests = q :: rt →
    ∃ r : Response, step s = .next (s.deliver rs r) ∧ step t = .next (t.deliver rt r)

/-- Every issued request is answered, in issue order, one a step, with the response to that request alone. -/
def Obligations.RequestsAreAnsweredInOrder : Prop :=
  ∀ (s : State) (k : Nat) (h : k < s.requests.length),
    stepN (k + 1) s = .next (s.deliver (s.requests.drop (k + 1)) (respond s.params s.requests[k]))

/-- No run stops, and no run changes PROFILE or FB. -/
def Obligations.RunsNeverStopNorChangeParameters : Prop :=
  ∀ (k : Nat) (s : State), ∃ t, stepN k s = .next t ∧ t.params = s.params ∧ t.requests = s.requests.drop k

/-- The invariant: from every sound state a step gives a sound state. -/
def Obligations.StepKeepsSoundness : Prop :=
  ∀ s t : State, s.Sound → step s = .next t → t.Sound

/-- The invariant holds after reset, for every admissible construction and for the model's own choice (log entry 1). -/
def Obligations.ResetIsSound : Prop :=
  (∀ p : Params, p.WF → (State.resetWith p).Sound) ∧ State.reset.Sound

/-- R120, R123: the codes, and exactly when each status answers a request. -/
def Obligations.StatusCausesAndPriority : Prop :=
  Status.ok.code = 0 ∧ Status.invalidInput.code = 1 ∧ Status.unsupportedOperation.code = 2 ∧
  Status.illegalCommand.code = 3 ∧
  ∀ (s : State) (q : Request) (rest : List Request), s.requests = q :: rest →
    ∃ r : Response, step s = .next (s.deliver rest r) ∧
      (r.status = .illegalCommand ↔ IllegalWord q.cmd) ∧
      (r.status = .unsupportedOperation ↔ q.cmd = 0x0006 ∧ s.params.profile ≠ .varC) ∧
      (r.status = .invalidInput ↔
        (q.cmd = 0x0002 ∧ (isNaN32 q.a = true ∨ isInf32 q.a = true)) ∨
        (q.cmd = 0x0003 ∧ (isNaN32 q.a = true ∨ isInf32 q.a = true ∨ isNaN32 q.b = true ∨ isInf32 q.b = true)))

/-- R121: an error gives R = 0 and produces nothing else. -/
def Obligations.ErrorsGiveZeroAndNothingElse : Prop :=
  ∀ (s t : State) (q : Request) (rest : List Request) (r : Response),
    s.requests = q :: rest → step s = .next t → t.response = some r → r.status ≠ .ok →
    r.result = 0 ∧ t = s.deliver rest ⟨0, r.status⟩

/-- The bits an operation does not read cannot change what it does, nor can an earlier response (R65, R34). -/
def Obligations.UnreadOperandBitsAreIgnored : Prop :=
  ∀ (p : Params) (q q' : Request) (rest : List Request) (r r' : Option Response),
    ((q.a.extractLsb' 0 16) >>> p.shift = (q'.a.extractLsb' 0 16) >>> p.shift →
      exec .decTemp ⟨p, q :: rest, r⟩ = exec .decTemp ⟨p, q' :: rest, r'⟩) ∧
    (q.a = q'.a → exec .encTemp ⟨p, q :: rest, r⟩ = exec .encTemp ⟨p, q' :: rest, r'⟩) ∧
    (q.a = q'.a → q.b = q'.b → exec .encPair ⟨p, q :: rest, r⟩ = exec .encPair ⟨p, q' :: rest, r'⟩) ∧
    (q.a.extractLsb' 0 8 = q'.a.extractLsb' 0 8 →
      exec .decCfg ⟨p, q :: rest, r⟩ = exec .decCfg ⟨p, q' :: rest, r'⟩ ∧
      (∀ uSd uMode uPol uFq v, exec (.encCfg uSd uMode uPol uFq v) ⟨p, q :: rest, r⟩ =
        exec (.encCfg uSd uMode uPol uFq v) ⟨p, q' :: rest, r'⟩) ∧
      exec .chkAlert ⟨p, q :: rest, r⟩ = exec .chkAlert ⟨p, q' :: rest, r'⟩)

/-- What every operation leaves unchanged: PROFILE and FB, and the requests behind the one in progress. The last clause's
case of a state with no request, where no response stands, is the model's reading (log entry 3, DEDUCED). -/
def Obligations.OperationsChangeOnlyTheInterface : Prop :=
  ∀ (i : Instr) (s t : State), exec i s = .next t →
    t.params = s.params ∧ t.requests = s.requests.tail ∧ (t.response.isSome ↔ s.requests ≠ [])

/-! ## The temperature codec -/

/-- DEC_TEMP completes with the exact binary32 pattern of the decoded value, and zero is +0 (R85); a nonzero result is normal
(R89, which the spec marks as derived: "the result stays in the normal range"). -/
def Obligations.DecTempGivesTheExactPattern : Prop :=
  ∀ (s : State) (q : Request) (rest : List Request), s.params.WF → s.requests = q :: rest →
    ∃ r : Word32, exec .decTemp s = .next (s.deliver rest ⟨r, .ok⟩) ∧
      isNaN32 r = false ∧ isInf32 r = false ∧ val32 r = decTQ s.params (q.a.extractLsb' 0 16) ∧
      (val32 r = 0 → r = 0x00000000) ∧ (val32 r ≠ 0 → f32Exp r ≠ 0)

/-- R86: ENC_TEMP completes with ENC_T of the exact value, computed on rationals, or with INVALID_INPUT. -/
def Obligations.EncTempGivesTheEncodedValue : Prop :=
  ∀ (s : State) (q : Request) (rest : List Request), s.requests = q :: rest →
    exec .encTemp s = .next (s.deliver rest
      (if isNaN32 q.a = true ∨ isInf32 q.a = true then ⟨0, .invalidInput⟩
       else ⟨(encTQ s.params (val32 q.a)).setWidth 32, .ok⟩))

/-- R87: ENC_PAIR completes with the larger value's encoding in R[31:16] and the smaller's in R[15:0], or with
INVALID_INPUT and neither half. -/
def Obligations.EncPairSortsAndEncodes : Prop :=
  ∀ (s : State) (q : Request) (rest : List Request), s.requests = q :: rest →
    exec .encPair s = .next (s.deliver rest
      (if isNaN32 q.a = true ∨ isInf32 q.a = true ∨ isNaN32 q.b = true ∨ isInf32 q.b = true then ⟨0, .invalidInput⟩
       else ⟨encTQ s.params (max (val32 q.a) (val32 q.b)) ++ encTQ s.params (min (val32 q.a) (val32 q.b)), .ok⟩))

/-- The format law of a raw temperature value (R80, which the spec marks as derived from R15). -/
def Obligations.EncodedValuesAreLeftJustified : Prop :=
  ∀ (p : Params) (a : Word32), p.WF → isFinite32 a = true →
    ∃ n : ℤ, p.nMin ≤ n ∧ n ≤ p.nMax ∧
      (encodedRaw p a).toNat >>> p.shift = (n % 2 ^ p.tempBits).toNat ∧ (encodedRaw p a).toNat % 2 ^ p.shift = 0 ∧
      val32 (decodedPattern p (encodedRaw p a)) = n * stepQ p ∧
      (p.fracBits = p.profile.defaultFracBits → (sext16 (encodedRaw p a) : ℚ) = 256 * (n * stepQ p))

/-- The rounding is to a nearest integer, and a tie goes to the larger magnitude (R82). -/
def Obligations.RoundingIsNearestTiesAway : Prop :=
  ∀ (num : ℤ) (den : ℕ), 0 < den →
    |(roundHalfAway num den : ℚ) - num / den| ≤ 1 / 2 ∧
    (|(roundHalfAway num den : ℚ) - num / den| = 1 / 2 → |(num : ℚ) / den| < |(roundHalfAway num den : ℚ)|)

/-- R83: saturation, silent and at the bounds of the encoding. -/
def Obligations.EncTempSaturates : Prop :=
  (∀ (s : State) (q : Request) (rest : List Request), s.requests = q :: rest → isFinite32 q.a = true →
    (s.params.nMax < roundHalfAwayQ (val32 q.a * 2 ^ s.params.fracBits) →
      exec .encTemp s = .next (s.deliver rest ⟨s.params.rawMax.setWidth 32, .ok⟩)) ∧
    (roundHalfAwayQ (val32 q.a * 2 ^ s.params.fracBits) < s.params.nMin →
      exec .encTemp s = .next (s.deliver rest ⟨0x00008000, .ok⟩))) ∧
  (∀ pr : Profile, pr.params.nMin * stepQ pr.params = -128 ∧ pr.params.nMax * stepQ pr.params = 128 - stepQ pr.params)

/-- Law (a) of R88, which the spec marks as derived: decoding an encoded grid value gives it back exactly. -/
def Obligations.GridValuesRoundTrip : Prop :=
  ∀ (p : Params) (a : Word32) (n : ℤ), p.WF → isFinite32 a = true → p.nMin ≤ n → n ≤ p.nMax →
    val32 a = n * stepQ p → val32 (decodedPattern p (encodedRaw p a)) = val32 a

/-- Law (b) of R88, which the spec marks as derived: inside the range the error is at most half a step. -/
def Obligations.QuantisationErrorIsAtMostHalfAStep : Prop :=
  ∀ (p : Params) (a : Word32), p.WF → isFinite32 a = true →
    p.nMin * stepQ p ≤ val32 a → val32 a ≤ p.nMax * stepQ p →
    |val32 (decodedPattern p (encodedRaw p a)) - val32 a| ≤ stepQ p / 2

/-- Law (c) of R88, which the spec marks as derived: outside the range the encoding is the nearer extreme, the ties at the bounds included. -/
def Obligations.OutOfRangeValuesSaturate : Prop :=
  ∀ (p : Params) (a : Word32), isFinite32 a = true →
    ((p.nMax + 1 / 2) * stepQ p ≤ val32 a → encodedRaw p a = p.rawMax) ∧
    (val32 a ≤ (p.nMin - 1 / 2) * stepQ p → encodedRaw p a = p.rawMin ∧ p.rawMin = 0x8000)

/-- Law (d) of R88, which the spec marks as derived: encoding is monotone. -/
def Obligations.EncodingIsMonotone : Prop :=
  ∀ (p : Params) (a b : Word32), isFinite32 a = true → isFinite32 b = true → val32 a ≤ val32 b →
    sext16 (encodedRaw p a) ≤ sext16 (encodedRaw p b)

/-- Law (e) of R88, which the spec marks as derived: encoding a decoded raw value clears the padding and changes nothing else. -/
def Obligations.EncodeAfterDecodeMasksThePadding : Prop :=
  ∀ (p : Params) (raw : Word16), p.WF → encodedRaw p (decodedPattern p raw) = raw &&& p.tMask

/-- Law (f) of R88, which the spec marks as derived: negation commutes with encoding where neither side saturates. -/
def Obligations.EncodingIsOddAwayFromSaturation : Prop :=
  ∀ (p : Params) (a : Word32), isFinite32 a = true →
    |roundHalfAwayQ (val32 a * 2 ^ p.fracBits)| ≤ p.nMax →
    encodedRaw p (a ^^^ 0x80000000) = -encodedRaw p a

/-- Law (g) of R88, which the spec marks as derived: ENC_PAIR does not depend on the order of its operands, and its halves are ordered. -/
def Obligations.ThresholdPairIsSymmetricAndOrdered : Prop :=
  ∀ (p : Params) (a b : Word32),
    respond p ⟨0x0003, a, b⟩ = respond p ⟨0x0003, b, a⟩ ∧
    (isFinite32 a = true → isFinite32 b = true →
      sext16 ((respond p ⟨0x0003, a, b⟩).result.extractLsb' 0 16) ≤
        sext16 ((respond p ⟨0x0003, a, b⟩).result.extractLsb' 16 16))

/-- The computation in binary32, with an overflowing product saturating, gives the same N (R91, which the spec marks as
derived). -/
def Obligations.BinaryProductGivesTheSameInteger : Prop :=
  ∀ (p : Params) (a : Word32), p.WF → isFinite32 a = true → encNBinary32 p a = encNQ p (val32 a)

/-- The nearest binary32 to the exact value of a finite pattern is that pattern, its sign kept. -/
def Obligations.NearestPatternOfAPatternIsItself : Prop :=
  ∀ a : Word32, isFinite32 a = true → f32Nearest (f32Sign a) (f32MagUnits a) f32One = a

/-! ## The configuration fields -/

/-- R101: DEC_CFG completes with the named bits and the alert-valid bit. -/
def Obligations.DecCfgReportsTheNamedBits : Prop :=
  ∀ (s : State) (q : Request) (rest : List Request), s.requests = q :: rest →
    exec .decCfg s = .next (s.deliver rest
      ⟨(q.a.extractLsb' 0 8 &&& (if s.params.profile = .varC then 0x3F#8 else 0x1F#8)).setWidth 32 |||
        (if s.params.profile = .varC then 0x100#32 else 0#32), .ok⟩)

/-- ENC_CFG completes, and each bit of R is the new value of its field where the field is updated and the current bit
elsewhere (R102). For V with V[7:5] not zero, which no command word decodes to (R67), this is the model's choice: those bits
are ignored (log entry 14). -/
def Obligations.EncCfgMergesFieldByField : Prop :=
  ∀ (s : State) (q : Request) (rest : List Request) (uSd uMode uPol uFq : Bool) (v : Byte), s.requests = q :: rest →
    ∃ r : Word32, exec (.encCfg uSd uMode uPol uFq v) s = .next (s.deliver rest ⟨r, .ok⟩) ∧
      ∀ i : Nat, r.getLsbD i =
        if 8 ≤ i then false
        else if (i = 0 ∧ uSd) ∨ (i = 1 ∧ uMode) ∨ (i = 2 ∧ uPol) ∨ ((i = 3 ∨ i = 4) ∧ uFq) then v.getLsbD i
        else q.a.getLsbD i

/-- R102, R64: a step on any word that matches ENC_CFG's row answers with the merge under the field mask of its U bits. -/
def Obligations.EncCfgWordsMergeUnderTheFieldMask : Prop :=
  ∀ (s : State) (q : Request) (rest : List Request), s.requests = q :: rest → q.cmd &&& 0xE00F#16 = 0x0005#16 →
    let c : Byte := q.a.extractLsb' 0 8
    let m : Byte := (if q.cmd.getLsbD 4 then 0x01#8 else 0#8) ||| (if q.cmd.getLsbD 5 then 0x02#8 else 0#8) |||
      (if q.cmd.getLsbD 6 then 0x04#8 else 0#8) ||| (if q.cmd.getLsbD 7 then 0x18#8 else 0#8)
    let v : Byte := q.cmd.extractLsb' 8 8
    step s = .next (s.deliver rest ⟨((c &&& ~~~m) ||| (v &&& m)).setWidth 32, .ok⟩)

/-- SET_MODE is the ENC_CFG that names MODE (R71); it replaces that bit and keeps every other (R103, which the spec marks as
derived from R102 and R71). -/
def Obligations.SetModeReplacesOnlyTheModeBit : Prop :=
  ∀ (s : State) (rest : List Request) (c : Byte) (m : Mode), s.requests = assemble (.setMode c m) :: rest →
    (assemble (.setMode c m)).cmd = (if m = .interrupt then 0x0225#16 else 0x0025#16) ∧
    setModeOf (assemble (.setMode c m)).cmd = some m ∧
    assemble (.setMode c m) = assemble (.encCfg c none (some m.bit) none none) ∧
    step s = .next (s.deliver rest
      ⟨((c &&& 0xFD#8) ||| ((BitVec.ofBool m.bit).setWidth 8 <<< 1)).setWidth 32, .ok⟩)

/-- R104: CHK_ALERT completes with Config bit 5 on VAR_C, and is answered UNSUPPORTED_OPERATION elsewhere. -/
def Obligations.ChkAlertTestsTheLatch : Prop :=
  ∀ (s : State) (q : Request) (rest : List Request), s.requests = q :: rest →
    exec .chkAlert s = .next (s.deliver rest
      (if s.params.profile = .varC then ⟨if q.a.getLsbD 5 then 1 else 0, .ok⟩ else ⟨0, .unsupportedOperation⟩))

/-- The laws of ENC_CFG and DEC_CFG, (a) to (g), a field being a U bit with its mask (R105, which the spec marks as derived
from R101 and R102). -/
def Obligations.ConfigFieldLaws : Prop :=
  ∀ (p : Params) (c : Byte) (u u' : BitVec 4) (v v' : BitVec 5),
    (∀ f ∈ [(0, 0x01#8), (1, 0x02#8), (2, 0x04#8), (3, 0x18#8)],
      (u.getLsbD f.1 = false → mergedConfig p c u v &&& f.2 = c &&& f.2) ∧
      (u.getLsbD f.1 = true → mergedConfig p c u v &&& f.2 = v.setWidth 8 &&& f.2) ∧
      (u'.getLsbD f.1 = true → mergedConfig p (mergedConfig p c u v) u' v' &&& f.2 = v'.setWidth 8 &&& f.2)) ∧
    mergedConfig p c u v &&& 0xE0#8 = c &&& 0xE0#8 ∧
    mergedConfig p c 0 v = c ∧
    mergedConfig p (mergedConfig p c u v) u v = mergedConfig p c u v ∧
    (u &&& u' = 0 →
      mergedConfig p (mergedConfig p c u v) u' v' = mergedConfig p (mergedConfig p c u' v') u v) ∧
    (∀ m : Mode,
      (reportedConfig p (mergedConfig p c 0b0010#4 (0#3 ++ BitVec.ofBool m.bit ++ 0#1))).getLsbD 1 = m.bit ∧
      (reportedConfig p (mergedConfig p c 0b0010#4 (0#3 ++ BitVec.ofBool m.bit ++ 0#1))).extractLsb' 3 2 =
        c.extractLsb' 3 2) ∧
    reportedConfig p (mergedConfig p c u v) &&& 0x1F#32 = (mergedConfig p c u v &&& 0x1F#8).setWidth 32

/-! ## The host and the device around the block (outside `step`) -/

/-- What the host's request gets is what a step of the block delivers. -/
def Obligations.HostRequestIsOneStep : Prop :=
  ∀ (y : System) (q : Request),
    step { y.block with requests := [q] } = .next (y.ask q).2.block ∧
    (y.ask q).2.block.response = some (y.ask q).1 ∧ (y.ask q).2.device = y.device ∧
    (y.ask q).2.transfers = y.transfers

/-- The transfers of each host operation where none fails: one read of Temp; one write each of the two threshold registers;
one read and then one write of Config; one read of Config and no write. -/
def Obligations.HostOperationTransfers : Prop :=
  ∀ y : System, (∀ ch ∈ y.choices, ch.fails = false) →
    y.temperature.2.transfers = .read y.regAddrs.temp 2 :: y.transfers ∧
    (∀ v0 v1, isFinite32 v0 = true → isFinite32 v1 = true → ∃ h l : List Byte, h.length = 2 ∧ l.length = 2 ∧
      (y.setThresholds v0 v1 true).2.transfers =
        .write y.regAddrs.low l :: .write y.regAddrs.high h :: y.transfers ∧
      (y.setThresholds v0 v1 false).2.transfers =
        .write y.regAddrs.high h :: .write y.regAddrs.low l :: y.transfers) ∧
    (∀ m others, ∃ b : Byte, (y.osMode m others).2.transfers =
      .write y.regAddrs.config [b] :: .read y.regAddrs.config 1 :: y.transfers) ∧
    y.clear.2.transfers = .read y.regAddrs.config 1 :: y.transfers

/-- Setting thresholds with a NaN or an infinity reports InvalidInput, transfers nothing and leaves the device as it was. -/
def Obligations.InvalidThresholdsWriteNothing : Prop :=
  ∀ (y : System) (v0 v1 : Word32) (highFirst : Bool), (isFinite32 v0 && isFinite32 v1) = false →
    (y.setThresholds v0 v1 highFirst).1 = .error .invalidInput ∧
    (y.setThresholds v0 v1 highFirst).2.transfers = y.transfers ∧
    (y.setThresholds v0 v1 highFirst).2.device = y.device

/-- Setting thresholds stores the sorted pair, whatever the order of the operands and of the writes, on a device that keeps
its fields (premise I6). That the second write leaves the first register as it was is the model's choice (log entry 16). -/
def Obligations.ThresholdsAreStoredSorted : Prop :=
  ∀ (y : System) (v0 v1 : Word32) (highFirst : Bool), (∀ ch ∈ y.choices, ch.fails = false) → y.keepsFields = true →
    isFinite32 v0 = true → isFinite32 v1 = true →
    (y.setThresholds v0 v1 highFirst).1 = .value () ∧
    (y.setThresholds v0 v1 highFirst).2.device.high &&& y.block.params.tMask =
      encTQ y.block.params (max (val32 v0) (val32 v1)) ∧
    (y.setThresholds v0 v1 highFirst).2.device.low &&& y.block.params.tMask =
      encTQ y.block.params (min (val32 v0) (val32 v1))

/-- os_mode with the lock held sets MODE and keeps the other named fields, on a device that keeps its fields (premise I6). -/
def Obligations.OsModeKeepsTheOtherFields : Prop :=
  ∀ (y : System) (m : Mode), (∀ ch ∈ y.choices, ch.fails = false) → y.keepsFields = true →
    (y.osMode m []).1 = .value () ∧ (y.osMode m []).2.device.config.getLsbD 1 = m.bit ∧
    ∀ i ∈ [0, 2, 3, 4], (y.osMode m []).2.device.config.getLsbD i = y.device.config.getLsbD i

/-- clear() reads Config once and writes nothing; it reports the latch of that read on VAR_C, and UnsupportedOperation
elsewhere; it keeps the named fields below ALERT. What ALERT is after the read is left open (log entries 6 and 15). That the
read keeps the other named fields is the model's choice (log entry 16). -/
def Obligations.ClearReportsTheLatchOnce : Prop :=
  ∀ y : System, (∀ ch ∈ y.choices, ch.fails = false) →
    y.clear.1 = (if y.block.params.profile = .varC then .value (y.device.config.getLsbD 5)
      else .error .unsupportedOperation) ∧
    y.clear.2.transfers = .read y.regAddrs.config 1 :: y.transfers ∧
    ∀ i ∈ [0, 1, 2, 3, 4], y.clear.2.device.config.getLsbD i = y.device.config.getLsbD i

/-- temperature() decodes the value the device sampled, under either byte order. -/
def Obligations.TemperatureDecodesTheSample : Prop :=
  ∀ y : System, y.block.params.WF → (∀ ch ∈ y.choices, ch.fails = false) →
    ∃ r : Word32, y.temperature.1 = .value r ∧
      val32 r = decTQ y.block.params y.temperature.2.device.temp

/-- A failed read of Config ends the operation: nothing is asked of the block and nothing is written. -/
def Obligations.FailedConfigReadIssuesNothing : Prop :=
  ∀ (y : System) (m : Mode) (others : List Byte), y.choice.fails = true →
    (y.osMode m others).1 = .transportError ∧ y.clear.1 = .transportError ∧
    (y.osMode m others).2.block = y.block ∧ y.clear.2.block = y.block ∧
    (y.osMode m others).2.transfers = .read y.regAddrs.config 1 :: y.transfers ∧
    y.clear.2.transfers = .read y.regAddrs.config 1 :: y.transfers

/-- Another master's writes of Config between the host's read and its write are overwritten: the block cannot detect a stale
operand (R50, R144). Where the host's write fails, or the device does not keep its fields, the Config it leaves is a value of
the choice list by the model's choice (log entries 6 and 7), so it does not depend on the others' writes either; those writes
are modelled as log entry 8 says. -/
def Obligations.WritesBetweenReadAndWriteAreLost : Prop :=
  ∀ (y : System) (m : Mode) (others : List Byte),
    (y.osMode m others).1 = (y.osMode m []).1 ∧
    (y.osMode m others).2.device.config = (y.osMode m []).2.device.config

/-- The host assembles a 16-bit register's two bytes into the value the device sent, per HOST_BYTE_ORDER. -/
def Obligations.RegisterBytesAssembleBack : Prop :=
  ∀ (r : RegName) (v : Word16), r ∈ [RegName.temp, .low, .high] →
    (∀ o, ofBytes o (toBytes o r v) = v) ∧
    toBytes .msbFirst r v = [v.extractLsb' 8 8, v.extractLsb' 0 8] ∧
    toBytes .lsbFirst r v = [v.extractLsb' 0 8, v.extractLsb' 8 8]
end

