-- ==== Sys2Proof/Laws/Float.lean ====
section
/-! SUPPORT. What the binary32 operations compute, in exact values. -/

namespace Sys2Proof.Machine

/-- The exact value of a pattern is its whole number of units of 2^(-149). -/
theorem val32_eq_units (b : Word32) : val32 b = (f32Units b : ℚ) / 2 ^ 149 := by
  have key : (if f32Exp b = 0 then (f32Frac b : ℚ) / 2 ^ 149
     else (1 + (f32Frac b : ℚ) / 2 ^ 23) * (2 : ℚ) ^ ((f32Exp b : ℤ) - 127)) = (f32MagUnits b : ℚ) / 2 ^ 149 := by
    unfold f32MagUnits
    split
    · rfl
    · rename_i h
      obtain ⟨k, hk⟩ : ∃ k, f32Exp b = k + 1 := ⟨f32Exp b - 1, by omega⟩
      have e : ((f32Exp b : ℤ) - 127) = (k : ℤ) + (-126) := by omega
      rw [e, zpow_add₀ (by norm_num), hk]
      simp only [Nat.add_sub_cancel, zpow_natCast]
      push_cast
      have : (2 : ℚ) ^ (-126 : ℤ) = 2 ^ 23 / 2 ^ 149 := by norm_num
      rw [this]
      field_simp
      norm_num
  unfold val32
  rw [key]
  unfold f32Units
  split <;> push_cast <;> ring

/-- The integer rounding is the rational one. -/
theorem roundHalfAwayQ_div (num : ℤ) {den : ℕ} (hd : 0 < den) :
    roundHalfAwayQ ((num : ℚ) / den) = roundHalfAway num den := by
  have hq : (0 : ℚ) < den := by exact_mod_cast hd
  have hs : SignType.sign ((num : ℚ) / den) = SignType.sign num := by
    rcases lt_trichotomy num 0 with h | h | h
    · rw [sign_neg h, sign_neg (div_neg_of_neg_of_pos (by exact_mod_cast h) hq)]
    · simp [h]
    · rw [sign_pos h, sign_pos (div_pos (by exact_mod_cast h) hq)]
  have ha : |(num : ℚ) / den| + 1 / 2 = ((2 * num.natAbs + den : ℕ) : ℚ) / ((2 * den : ℕ) : ℚ) := by
    rw [abs_div, abs_of_pos hq]
    push_cast
    rw [Nat.cast_natAbs, Int.cast_abs]
    field_simp
  unfold roundHalfAwayQ roundHalfAway
  rw [hs, ha, Int.sign_eq_sign]
  congr 1
  exact Rat.floor_natCast_div_natCast _ _

/-- The three fields of a pattern written as sign, exponent and fraction. -/
theorem f32_fields {neg : Bool} {e f : ℕ} (he : e < 256) (hf : f < 2 ^ 23) :
    let b : Word32 := BitVec.ofNat 32 ((if neg then 2 ^ 31 else 0) + (e * 2 ^ 23 + f))
    f32Sign b = neg ∧ f32Exp b = e ∧ f32Frac b = f := by
  intro b
  have ht : b.toNat = (if neg then 2 ^ 31 else 0) + (e * 2 ^ 23 + f) := by
    simp only [b, BitVec.toNat_ofNat]
    split <;> omega
  refine ⟨?_, ?_, ?_⟩
  · unfold f32Sign
    rw [← BitVec.testBit_toNat, ht, Nat.testBit_eq_decide_div_mod_eq]
    cases neg <;> simp <;> omega
  · unfold f32Exp
    rw [BitVec.extractLsb'_toNat, ht, Nat.shiftRight_eq_div_pow]
    split <;> omega
  · unfold f32Frac
    rw [BitVec.extractLsb'_toNat, ht, Nat.shiftRight_eq_div_pow]
    split <;> omega

/-- The pattern of a nonzero fixed-point value holds exactly that value and is normal. -/
theorem f32OfFixed_spec {n : ℤ} {fb : ℕ} (hn : n.natAbs < 2 ^ 24) (hfb : fb ≤ 126) (h0 : n ≠ 0) :
    f32Units (f32OfFixed n fb) = n * 2 ^ (149 - fb) ∧ 0 < f32Exp (f32OfFixed n fb) ∧
      f32Exp (f32OfFixed n fb) < 255 := by
  have hm0 : n.natAbs ≠ 0 := by omega
  have hlo := Nat.log2_self_le hm0
  have hhi : n.natAbs < 2 ^ (n.natAbs.log2 + 1) := Nat.lt_log2_self
  have hk : n.natAbs.log2 ≤ 23 := by
    have : n.natAbs.log2 < 24 := (Nat.log2_lt hm0).2 hn
    omega
  generalize hK : n.natAbs.log2 = k at *
  have hp : (2 : ℕ) ^ k * 2 ^ (23 - k) = 2 ^ 23 := by rw [← pow_add]; congr 1; omega
  have hpos : 0 < (2 : ℕ) ^ (23 - k) := by positivity
  have h1 : 2 ^ 23 ≤ n.natAbs * 2 ^ (23 - k) := by rw [← hp]; exact Nat.mul_le_mul_right _ hlo
  have h2 : n.natAbs * 2 ^ (23 - k) < 2 * 2 ^ 23 := by
    rw [← hp, ← mul_assoc, ← pow_succ']
    exact Nat.mul_lt_mul_of_pos_right hhi hpos
  have hb : f32OfFixed n fb = BitVec.ofNat 32 ((if decide (n < 0) then 2 ^ 31 else 0) +
      ((127 + k - fb) * 2 ^ 23 + (n.natAbs * 2 ^ (23 - k) - 2 ^ 23))) := by
    unfold f32OfFixed
    rw [if_neg h0]
    simp only [hK, decide_eq_true_eq, Nat.add_assoc]
  obtain ⟨hs, he, hf⟩ := f32_fields (neg := decide (n < 0)) (e := 127 + k - fb)
    (f := n.natAbs * 2 ^ (23 - k) - 2 ^ 23) (by omega) (by omega)
  rw [← hb] at hs he hf
  refine ⟨?_, by omega, by omega⟩
  have hmag : f32MagUnits (f32OfFixed n fb) = n.natAbs * 2 ^ (149 - fb) := by
    unfold f32MagUnits
    rw [he, hf, if_neg (by omega), Nat.add_sub_cancel' h1, mul_assoc, ← pow_add]
    congr 2
    omega
  unfold f32Units
  rw [hs, hmag]
  push_cast
  by_cases hneg : n < 0
  · simp only [hneg, decide_true, if_true]
    rw [abs_of_neg hneg]; ring
  · simp only [hneg, decide_false]
    rw [abs_of_nonneg (by omega)]; simp

@[simp] theorem f32OfFixed_zero (fb : ℕ) : f32OfFixed 0 fb = 0 := rfl

end Sys2Proof.Machine
end

