-- ==== Sys2Proof/Laws/State.lean ====
section
/-! SUPPORT. One lemma per field per update of the state. -/

namespace Sys2Proof.Machine

variable (s : State) (p : Params) (cmd : Word16) (rest : List Request) (r : Response)

@[simp] theorem resetWith_params : (State.resetWith p).params = p := rfl
@[simp] theorem resetWith_requests : (State.resetWith p).requests = [] := rfl
@[simp] theorem resetWith_response : (State.resetWith p).response = none := rfl

@[simp] theorem idle_params : s.idle.params = s.params := rfl
@[simp] theorem idle_requests : s.idle.requests = s.requests := rfl
@[simp] theorem idle_response : s.idle.response = none := rfl

@[simp] theorem deliver_params : (s.deliver rest r).params = s.params := rfl
@[simp] theorem deliver_requests : (s.deliver rest r).requests = rest := rfl
@[simp] theorem deliver_response : (s.deliver rest r).response = some r := rfl

@[simp] theorem withCommand_params : (s.withCommand cmd).params = s.params := by
  unfold State.withCommand; split <;> rfl
@[simp] theorem withCommand_response : (s.withCommand cmd).response = s.response := by
  unfold State.withCommand; split <;> rfl
@[simp] theorem withCommand_fetch : (s.withCommand cmd).fetch = some cmd := by
  unfold State.withCommand; split <;> rfl

@[simp] theorem done_result (w : Word32) : (Response.done w).result = w := rfl
@[simp] theorem done_status (w : Word32) : (Response.done w).status = .ok := rfl
@[simp] theorem raise_result (st : Status) : (Response.raise st).result = 0 := rfl
@[simp] theorem raise_status (st : Status) : (Response.raise st).status = st := rfl

end Sys2Proof.Machine
end

