-- ==== Sys2Proof/Laws/Ops.lean ====
section
/-! SUPPORT. What the shared operations do, said once: serving a request, the two gates, and one step. -/

namespace Sys2Proof.Machine

/-- Serving is the whole of what a meaning does: with no request the block is idle, else the first request gets one
response, computed from the parameters and that request alone. -/
theorem serve_cons {s : State} {q : Request} {rest : List Request} (h : s.requests = q :: rest)
    (f : Params → Request → Response) : s.serve f = s.deliver rest (f s.params q) := by
  simp only [State.serve, h, State.deliver]

theorem serve_nil {s : State} (h : s.requests = []) (f : Params → Request → Response) : s.serve f = s.idle := by
  simp only [State.serve, h]

@[simp] theorem serve_params (s : State) (f : Params → Request → Response) : (s.serve f).params = s.params := by
  unfold State.serve; split <;> rfl

@[simp] theorem serve_requests (s : State) (f : Params → Request → Response) :
    (s.serve f).requests = s.requests.tail := by
  unfold State.serve; split <;> simp_all

/-- A response on the ports after serving is the one computed for the request that was in progress. -/
theorem serve_response {s : State} {f : Params → Request → Response} {r : Response}
    (h : (s.serve f).response = some r) : ∃ q ∈ s.requests, r = f s.params q := by
  unfold State.serve at h
  split at h
  · simp at h
  · rename_i q rest hq
    simp only [Option.some.injEq] at h
    exact ⟨q, by simp [hq], h.symm⟩

/-- The INVALID_INPUT gate gives the operation's response or raises. -/
theorem requireValid_cases (v : Bool) (r : Response) :
    (v = true ∧ Response.requireValid v r = r) ∨
    (v = false ∧ Response.requireValid v r = .raise .invalidInput) := by
  cases v <;> simp [Response.requireValid]

/-- The UNSUPPORTED_OPERATION gate gives the operation's response or raises. -/
theorem requireAlert_cases (p : Params) (r : Response) :
    (p.hasAlert = true ∧ Response.requireAlert p r = r) ∨
    (p.hasAlert = false ∧ Response.requireAlert p r = .raise .unsupportedOperation) := by
  cases h : p.hasAlert <;> simp [Response.requireAlert, h]

/-- Every arm of exec serves the request in progress with its operation's response. -/
theorem exec_eq_answer (i : Instr) (s : State) : exec i s = s.answer (respondTo i) := by
  cases i <;> rfl

/-- One step serves the request in progress with `respond`; with no request it is idle, which serving covers too. -/
theorem step_eq_answer (s : State) : step s = s.answer respond := by
  unfold step State.fetch
  cases hq : s.requests with
  | nil => simp [State.answer, State.serve, hq]
  | cons q rest =>
    simp only
    cases hd : Sys2Proof.decode q.cmd with
    | error e => simp [rejectCommand, State.answer, serve_cons hq, respond, hd]
    | ok i => simp [exec_eq_answer, State.answer, serve_cons hq, respond, hd]

end Sys2Proof.Machine
end

