-- ==== Sys2Proof/Laws/PerInstr.lean ====
section
/-! SUPPORT. Facts about every instruction as syntax, one lemma per constructor. -/

/-- A well-formed instruction encodes to a word that matches its row of the opcode table (rules R61, R63). -/
def Sys2Proof.Laws.EncodedRow.Statement (i : Sys2Proof.Instr) : Prop :=
  i.wellFormed = true → Sys2Proof.encode i &&& (Sys2Proof.tableRow i).2 = (Sys2Proof.tableRow i).1

namespace Sys2Proof.Laws.EncodedRow

theorem decTemp : Statement .decTemp := by intro _; decide

theorem encTemp : Statement .encTemp := by intro _; decide

theorem encPair : Statement .encPair := by intro _; decide

theorem decCfg : Statement .decCfg := by intro _; decide

theorem encCfg (uSd uMode uPol uFq : Bool) (v : Byte) : Statement (.encCfg uSd uMode uPol uFq v) := by
  unfold Statement
  revert uSd uMode uPol uFq v
  decide +kernel

theorem chkAlert : Statement .chkAlert := by intro _; decide

end Sys2Proof.Laws.EncodedRow
end

