-- ==== Sys2Proof/Laws/System.lean ====
section
/-! SUPPORT. One lemma per field per update of the system of host, block and device, and the two ways an operation goes on. -/

namespace Sys2Proof.Machine

variable (y : System) (t : Transfer) (d : Device) (q : Request) (cs : List Byte) (p : Params) (b : Bool)

@[simp] theorem latch_temp : (d.latch p b).temp = d.temp := by unfold Device.latch; split <;> rfl
@[simp] theorem latch_low : (d.latch p b).low = d.low := by unfold Device.latch; split <;> rfl
@[simp] theorem latch_high : (d.latch p b).high = d.high := by unfold Device.latch; split <;> rfl
@[simp] theorem latch_tidle : (d.latch p b).tidle = d.tidle := by unfold Device.latch; split <;> rfl
@[simp] theorem latch_false : d.latch p false = d := by simp [Device.latch]

/-- Latching touches no bit of Config but ALERT, and never clears it. -/
theorem latch_config (i : Nat) : (d.latch p b).config.getLsbD i =
    (d.config.getLsbD i || (p.hasAlert && b && decide (i = 5))) := by
  have h : (0x20#8).getLsbD i = decide (i = 5) := by
    rcases Nat.lt_or_ge i 8 with hi | hi
    · interval_cases i <;> rfl
    · rw [BitVec.getLsbD_of_ge _ _ hi]; simp; omega
  unfold Device.latch
  cases p.hasAlert <;> cases b <;> simp [BitVec.getLsbD_or, h]

@[simp] theorem after_block : (y.after t d).block = y.block := rfl
@[simp] theorem after_device : (y.after t d).device = d := rfl
@[simp] theorem after_choices : (y.after t d).choices = y.choices.tail := rfl
@[simp] theorem after_transfers : (y.after t d).transfers = t :: y.transfers := rfl
@[simp] theorem after_keepsFields : (y.after t d).keepsFields = y.keepsFields := rfl
@[simp] theorem after_byteOrder : (y.after t d).byteOrder = y.byteOrder := rfl
@[simp] theorem after_regAddrs : (y.after t d).regAddrs = y.regAddrs := rfl

@[simp] theorem ask_fst : (y.ask q).1 = respond y.block.params q := rfl
@[simp] theorem ask_params : (y.ask q).2.block.params = y.block.params := rfl
@[simp] theorem ask_choices : (y.ask q).2.choices = y.choices := rfl
@[simp] theorem ask_keepsFields : (y.ask q).2.keepsFields = y.keepsFields := rfl
@[simp] theorem ask_byteOrder : (y.ask q).2.byteOrder = y.byteOrder := rfl
@[simp] theorem ask_regAddrs : (y.ask q).2.regAddrs = y.regAddrs := rfl

@[simp] theorem othersWrite_block : (y.othersWrite cs).block = y.block := rfl
@[simp] theorem othersWrite_choices : (y.othersWrite cs).choices = y.choices := rfl
@[simp] theorem othersWrite_transfers : (y.othersWrite cs).transfers = y.transfers := rfl
@[simp] theorem othersWrite_keepsFields : (y.othersWrite cs).keepsFields = y.keepsFields := rfl
@[simp] theorem othersWrite_byteOrder : (y.othersWrite cs).byteOrder = y.byteOrder := rfl
@[simp] theorem othersWrite_regAddrs : (y.othersWrite cs).regAddrs = y.regAddrs := rfl
@[simp] theorem othersWrite_nil : y.othersWrite [] = y := rfl

/-- An operation goes on with a response exactly where S is OK, else it ends with that status. -/
theorem useResult_cases {α : Type} (a : Response × System) (k : Word32 → System → HostResult α × System) :
    (a.1.status = .ok ∧ useResult a k = k a.1.result a.2) ∨
    (a.1.status ≠ .ok ∧ useResult a k = (.error a.1.status, a.2)) := by
  by_cases h : a.1.status = .ok <;> simp [useResult, h]

/-- An operation goes on after a transfer that gave a value, and ends with the error otherwise. -/
@[simp] theorem andThen_value {α β : Type} (x : β) (k : β → System → HostResult α × System) :
    andThen (.value x, y) k = k x y := rfl

@[simp] theorem andThen_transportError {α β : Type} (k : β → System → HostResult α × System) :
    andThen (.transportError, y) k = (.transportError, y) := rfl

/-- A read makes one transfer of the register's width and leaves the block alone, whether it succeeds or fails. -/
theorem hostRead_frame (r : RegName) :
    (y.hostRead r).2.block = y.block ∧
    (y.hostRead r).2.transfers = .read (regAddr y.regAddrs r) (regWidth r) :: y.transfers ∧
    (y.hostRead r).2.choices = y.choices.tail := by
  unfold System.hostRead
  split <;> simp

/-- A write makes one transfer of the register's bytes and leaves the block alone, whether it succeeds or fails. -/
theorem hostWrite_frame (r : RegName) (v : Word16) :
    (y.hostWrite r v).2.block = y.block ∧
    (y.hostWrite r v).2.transfers = .write (regAddr y.regAddrs r) (toBytes y.byteOrder r v) :: y.transfers ∧
    (y.hostWrite r v).2.choices = y.choices.tail := by
  simp [System.hostWrite]

end Sys2Proof.Machine
end

