-- ==== Sys2Proof/Laws/Temperature.lean ====
section
/-! SUPPORT. What the codec's helper functions compute: packing, unpacking and the encoder on exact values. -/

namespace Sys2Proof.Machine

/-- N of a raw value is the arithmetic shift by SH. -/
theorem decN_eq_sshiftRight (p : Params) (raw : Word16) : decN p raw = (raw.sshiftRight p.shift).toInt := by
  have hlt := raw.isLt
  rw [BitVec.toInt_sshiftRight, Int.shiftRight_eq_div_pow, BitVec.toInt_eq_toNat_cond]
  unfold decN sext
  obtain ⟨pr, fb⟩ := p
  cases pr <;>
    simp only [Params.tempBits, Params.shift, Profile.tempBits, Nat.testBit_eq_decide_div_mod_eq,
      Nat.shiftRight_eq_div_pow, decide_eq_true_eq] <;> split <;> split <;> omega

/-- Packing N is the 16-bit pattern of N * 2^SH. -/
theorem packN_eq_ofInt (p : Params) (n : ℤ) : packN p n = BitVec.ofInt 16 (n * 2 ^ p.shift) := by
  apply BitVec.eq_of_toNat_eq
  rw [BitVec.toNat_ofInt]
  unfold packN trunc
  obtain ⟨pr, fb⟩ := p
  cases pr <;>
    simp only [Params.tempBits, Params.shift, Profile.tempBits, Nat.shiftLeft_eq, BitVec.toNat_ofNat] <;> omega

/-- The integer encoder is ENC_T on the exact value. -/
theorem encT_eq (p : Params) (x : ℤ) : encT p x = encTQ p ((x : ℚ) / 2 ^ 149) := by
  have : (x : ℚ) / 2 ^ 149 * 2 ^ p.fracBits = ((x * 2 ^ p.fracBits : ℤ) : ℚ) / ((f32One : ℕ) : ℚ) := by
    unfold f32One; push_cast; ring
  unfold encT encTQ encN encNQ clamp
  rw [packN_eq_ofInt, this, roundHalfAwayQ_div _ (by decide)]
  congr 2
  have : p.nMin ≤ p.nMax := by
    obtain ⟨pr, fb⟩ := p
    cases pr <;> norm_num [Params.nMin, Params.nMax, Params.tempBits, Profile.tempBits]
  omega

theorem nMin_le_nMax (p : Params) : p.nMin ≤ p.nMax := by
  obtain ⟨pr, fb⟩ := p
  cases pr <;> norm_num [Params.nMin, Params.nMax, Params.tempBits, Profile.tempBits]

/-- N is clamped into the representable range. -/
theorem clamp_bounds (p : Params) (n : ℤ) : p.nMin ≤ clamp n p.nMin p.nMax ∧ clamp n p.nMin p.nMax ≤ p.nMax := by
  have := nMin_le_nMax p
  unfold clamp
  omega

/-- Every decoded N is in the representable range. -/
theorem decN_bounds (p : Params) (raw : Word16) : p.nMin ≤ decN p raw ∧ decN p raw ≤ p.nMax := by
  have hlt := raw.isLt
  unfold decN sext
  obtain ⟨pr, fb⟩ := p
  cases pr <;>
    simp only [Params.tempBits, Params.shift, Params.nMin, Params.nMax, Profile.tempBits,
      Nat.testBit_eq_decide_div_mod_eq, Nat.shiftRight_eq_div_pow, decide_eq_true_eq] <;> split <;> omega

/-- Unpacking a packed N in range gives it back. -/
theorem decN_packN {p : Params} {n : ℤ} (h1 : p.nMin ≤ n) (h2 : n ≤ p.nMax) : decN p (packN p n) = n := by
  unfold decN packN sext trunc
  obtain ⟨pr, fb⟩ := p
  cases pr <;>
    simp only [Params.tempBits, Params.shift, Params.nMin, Params.nMax, Profile.tempBits, BitVec.toNat_ofNat,
      Nat.testBit_eq_decide_div_mod_eq, Nat.shiftRight_eq_div_pow, Nat.shiftLeft_eq, decide_eq_true_eq] at * <;>
    split <;> omega

theorem shift_back_7 (x : Word16) : x &&& 0xFF80#16 = (x >>> 7) <<< 7 := by
  apply BitVec.eq_of_getLsbD_eq
  intro i hi
  interval_cases i <;> simp

theorem shift_back_5 (x : Word16) : x &&& 0xFFE0#16 = (x >>> 5) <<< 5 := by
  apply BitVec.eq_of_getLsbD_eq
  intro i hi
  interval_cases i <;> simp

theorem shift_back_3 (x : Word16) : x &&& 0xFFF8#16 = (x >>> 3) <<< 3 := by
  apply BitVec.eq_of_getLsbD_eq
  intro i hi
  interval_cases i <;> simp

/-- Packing an unpacked N clears the padding. -/
theorem packN_decN (p : Params) (raw : Word16) : packN p (decN p raw) = raw &&& p.tMask := by
  have hlt := raw.isLt
  apply BitVec.eq_of_toNat_eq
  obtain ⟨pr, fb⟩ := p
  cases pr
  case base =>
    rw [show Params.tMask ⟨.base, fb⟩ = 0xFF80#16 from rfl, shift_back_7]
    unfold decN packN sext trunc
    simp only [Params.tempBits, Params.shift, Profile.tempBits, BitVec.toNat_ofNat, BitVec.toNat_shiftLeft,
      BitVec.toNat_ushiftRight, Nat.testBit_eq_decide_div_mod_eq, Nat.shiftRight_eq_div_pow, Nat.shiftLeft_eq,
      decide_eq_true_eq]
    split <;> omega
  case varA =>
    rw [show Params.tMask ⟨.varA, fb⟩ = 0xFF80#16 from rfl, shift_back_7]
    unfold decN packN sext trunc
    simp only [Params.tempBits, Params.shift, Profile.tempBits, BitVec.toNat_ofNat, BitVec.toNat_shiftLeft,
      BitVec.toNat_ushiftRight, Nat.testBit_eq_decide_div_mod_eq, Nat.shiftRight_eq_div_pow, Nat.shiftLeft_eq,
      decide_eq_true_eq]
    split <;> omega
  case varB =>
    rw [show Params.tMask ⟨.varB, fb⟩ = 0xFFE0#16 from rfl, shift_back_5]
    unfold decN packN sext trunc
    simp only [Params.tempBits, Params.shift, Profile.tempBits, BitVec.toNat_ofNat, BitVec.toNat_shiftLeft,
      BitVec.toNat_ushiftRight, Nat.testBit_eq_decide_div_mod_eq, Nat.shiftRight_eq_div_pow, Nat.shiftLeft_eq,
      decide_eq_true_eq]
    split <;> omega
  case varC =>
    rw [show Params.tMask ⟨.varC, fb⟩ = 0xFFF8#16 from rfl, shift_back_3]
    unfold decN packN sext trunc
    simp only [Params.tempBits, Params.shift, Profile.tempBits, BitVec.toNat_ofNat, BitVec.toNat_shiftLeft,
      BitVec.toNat_ushiftRight, Nat.testBit_eq_decide_div_mod_eq, Nat.shiftRight_eq_div_pow, Nat.shiftLeft_eq,
      decide_eq_true_eq]
    split <;> omega

/-- The encoder gives a whole multiple of the step its own N back. -/
theorem encN_grid {p : Params} {n : ℤ} (hp : p.fracBits ≤ 149) (h1 : p.nMin ≤ n) (h2 : n ≤ p.nMax) :
    encN p (n * 2 ^ (149 - p.fracBits)) = n := by
  have e : n * 2 ^ (149 - p.fracBits) * 2 ^ p.fracBits = n * 2 ^ 149 := by
    rw [mul_assoc, ← pow_add]; congr 2; omega
  unfold encN
  rw [e]
  have : roundHalfAway (n * 2 ^ 149) f32One = n := by
    unfold roundHalfAway f32One
    rw [Int.sign_mul, Int.natAbs_mul]
    have : (2 * (n.natAbs * ((2:ℤ) ^ 149).natAbs) + 2 ^ 149) / (2 * 2 ^ 149) = n.natAbs := by
      have : ((2:ℤ) ^ 149).natAbs = 2 ^ 149 := by decide
      rw [this]
      omega
    rw [this, show Int.sign ((2:ℤ) ^ 149) = 1 by decide, mul_one, Int.sign_mul_natAbs]
  rw [this]
  unfold clamp; omega

end Sys2Proof.Machine
end

