-- ==== Sys2Proof/Tests/Slice0.lean ====
section
/-! SUPPORT. Tests of the model, with expected results from the spec's rules and its file 95, and the witnesses that the
hypotheses of the statements can be met. -/

namespace Sys2Proof.Tests

open Sys2Proof.Machine

/-- A block with one request issued. -/
def one (p : Params) (cmd : Word16) (a b : Word32) : State := { params := p, requests := [⟨cmd, a, b⟩], response := none }

/-- The response on the ports after an outcome. -/
def responseOf : Host.Outcome State Fault Refusal → Option Response
  | .next s => s.response
  | .fault _ => none
  | .refused _ => none

/-- The response of one step. -/
def answerTo (p : Params) (cmd : Word16) (a b : Word32) : Option Response := responseOf (step (one p cmd a b))

/-! ## Well-formedness: an ill-formed term for each check -/

theorem test_encCfg_reserved_value_bit_refused : (Instr.encCfg true false false false 0x20).wellFormed = false := by decide
theorem test_encCfg_top_value_bit_refused : (Instr.encCfg false false false false 0x80).wellFormed = false := by decide
theorem test_encCfg_full_value_accepted : (Instr.encCfg true true true true 0x1F).wellFormed = true := by decide
theorem test_fracBits_above_range_refused : ¬ Params.WF ⟨.base, 9⟩ ∧ ¬ Params.WF ⟨.varB, 11⟩ ∧ ¬ Params.WF ⟨.varC, 13⟩ := by decide
theorem test_fracBits_bounds_accepted : Params.WF ⟨.base, 8⟩ ∧ Params.WF ⟨.varB, 0⟩ ∧ Params.WF ⟨.varC, 12⟩ := by decide

/-! ## Decoding, each word written out from rules R61 and R63 -/

theorem test_decode_decTemp : decode 0b0000000000000001 = .ok .decTemp := by decide
theorem test_decode_encTemp : decode 0b0000000000000010 = .ok .encTemp := by decide
theorem test_decode_encPair : decode 0b0000000000000011 = .ok .encPair := by decide
theorem test_decode_decCfg : decode 0b0000000000000100 = .ok .decCfg := by decide
theorem test_decode_chkAlert : decode 0b0000000000000110 = .ok .chkAlert := by decide

/-- `ENC_CFG A=0x00, sd=1, fq=2` of rule R72: V = 0x11, U_FQ and U_SD. -/
theorem test_decode_encCfg_sd_fq : decode 0b0001000110010101 = .ok (.encCfg true false false true 0x11) := by decide

/-- SET_MODE INTERRUPT of rule R71: U_MODE alone, V = 0x02. -/
theorem test_decode_encCfg_mode : decode 0b0000001000100101 = .ok (.encCfg false true false false 0x02) := by decide

/-- U_POL alone, V_POL: bits 6 and 10. -/
theorem test_decode_encCfg_pol : decode 0b0000010001000101 = .ok (.encCfg false false true false 0x04) := by decide

theorem test_decode_zero_rejected : decode 0x0000 = .error (.illegalOpcode 0) := by decide
theorem test_decode_op7_rejected : decode 0x0007 = .error (.illegalOpcode 7) := by decide
theorem test_decode_upper_bits_rejected : decode 0x8001 = .error (.nonzeroUpperBits 0x800) := by decide
theorem test_decode_reserved_value_rejected : decode 0xFFF5 = .error (.reservedValueBits 7) := by decide
theorem test_table_word : decodeTableWord 16 0x0225 = some (.encCfg false true false false 0x02) := by decide

/-! ## One step each, expected results from file 95 -/

/-- S2: `decode(0x1900) == 25.0`, with A[31:16] not zero. -/
theorem test_decTemp_25 : answerTo Profile.base.params 0x0001 0xABCD1900 0 = some ⟨0x41C80000, .ok⟩ := by decide

/-- VAR_C, padding not zero: the smallest negative step. -/
theorem test_decTemp_negative_padding :
    answerTo Profile.varC.params 0x0001 0xFFFF 0 = some ⟨0xBD000000, .ok⟩ := by decide

/-- S10: the tie 2.5 rounds away from zero, to 3. -/
theorem test_encTemp_tie : answerTo Profile.base.params 0x0002 0x3FA00000 0 = some ⟨0x00000180, .ok⟩ := by decide

/-- A tie beyond NMIN saturates. -/
theorem test_encTemp_saturates :
    answerTo Profile.varC.params 0x0002 0xC3000400 0 = some ⟨0x00008000, .ok⟩ := by decide

/-- VAR_C: low half negative, high half positive. -/
theorem test_encPair_sorts :
    answerTo Profile.varC.params 0x0003 0xC2220000 0x42AA8000 = some ⟨0x5540D780, .ok⟩ := by decide

/-- Infinity in B: no half produced. -/
theorem test_encPair_infinity :
    answerTo Profile.base.params 0x0003 0x3F800000 0x7F800000 = some ⟨0, .invalidInput⟩ := by decide

theorem test_decCfg_all_ones : answerTo Profile.varC.params 0x0004 0xFF 0 = some ⟨0x13F, .ok⟩ := by decide
theorem test_decCfg_drops_bit5 : answerTo Profile.base.params 0x0004 0x3F 0 = some ⟨0x1F, .ok⟩ := by decide

/-- Reserved bits preserved, every field updated. -/
theorem test_encCfg_all_fields : answerTo Profile.base.params 0x1EF5 0xC0 0 = some ⟨0xDE, .ok⟩ := by decide

/-- Only MODE is taken from V = 0x1F. -/
theorem test_encCfg_mode_only : answerTo Profile.varA.params 0x1F25 0 0 = some ⟨0x02, .ok⟩ := by decide

theorem test_chkAlert_latched : answerTo Profile.varC.params 0x0006 0x22 0 = some ⟨1, .ok⟩ := by decide
theorem test_chkAlert_unsupported :
    answerTo Profile.varB.params 0x0006 0x22 0 = some ⟨0, .unsupportedOperation⟩ := by decide

/-- An illegal word wins over a NaN. -/
theorem test_illegal_first : answerTo Profile.base.params 0x0012 0x7FC00000 0 = some ⟨0, .illegalCommand⟩ := by decide

/-- The first step after reset runs the word placed by withFetchWord. -/
theorem test_first_step_after_reset :
    responseOf (step (State.reset.withFetchWord 16 0x0445)) = some ⟨0x04, .ok⟩ := by decide

/-- FB overridden: VAR_B with FB = 1 encodes 25.0 to n = 50. -/
theorem test_fracBits_override : answerTo ⟨.varB, 1⟩ 0x0002 0x41C80000 0 = some ⟨0x640, .ok⟩ := by decide

/-- The nearest binary32 to 26.3 and to -0.3 (file 95), and the largest decimal below the overflow. -/
theorem test_decimal_literals :
    (FloatLit.decimal false 263 1).bits = 0x41D26666 ∧ (FloatLit.decimal true 3 1).bits = 0xBE99999A ∧
    (FloatLit.decimal true 0 1).bits = 0x80000000 := by decide

/-- Program P1's read, update and write: Config 0x18 becomes 0x1A, on a device that keeps its fields. -/
def sysP1 : System where
  block := State.resetWith Profile.base.params
  device := { temp := 0, config := 0x18, low := 0, high := 0, tidle := 0 }
  byteOrder := .msbFirst
  regAddrs := { temp := 0xA0, config := 0xA1, low := 0xA2, high := 0xA3, tidle := 0xA4 }
  keepsFields := true
  choices := []
  transfers := []

theorem test_osMode : (sysP1.osMode .interrupt []).2.device.config = 0x1A := by decide

/-- Program P6: the other master's SD = 1 is lost. -/
theorem test_stale_config : (sysP1.osMode .interrupt [0x19]).2.device.config = 0x1A := by decide

/-- VAR_C, program P3 (a): the latch is reported. -/
def sysP3 : System :=
  { sysP1 with block := State.resetWith Profile.varC.params, device := { sysP1.device with config := 0x22 } }

theorem test_clear : sysP3.clear.1 = .value true := by decide

/-- A VAR_C device may latch after an access of another register, from ALERT = 0; a BASE device has no latch (log entry 15). -/
theorem test_alert_may_latch_after_temp_read :
    let latching := [{ fails := false, word := 0x1900, latches := true : Choice }]
    let y : System := { sysP3 with device := { sysP3.device with config := 0x02 }, choices := latching }
    y.temperature.2.clear.1 = .value true ∧
    ({ sysP1 with choices := latching } : System).temperature.2.device.config = 0x18 := by decide

/-- A device whose first transfer fails. -/
def sysFailing : System := { sysP1 with choices := [{ fails := true, word := 0, latches := false }] }

theorem test_failed_read : sysFailing.clear.1 = .transportError := by decide

/-! ## Witnesses: a state and operands that meet each statement's hypotheses -/

theorem witness_request_in_progress : (one Profile.base.params 0x0002 0x41C80000 0).requests = ⟨0x0002, 0x41C80000, 0⟩ :: [] := rfl

theorem witness_ProfileTableValues_padding_clear : (0x1900#16).toNat % 2 ^ Profile.base.params.shift = 0 := by decide

theorem witness_OpcodeRows : decode 0x1FF5 = .ok (.encCfg true true true true 0x1F) ∧ IllegalWord 0x0000 := by decide

/-- Words of each case of rule R67, at the ends of its range. -/
theorem witness_IllegalWords_opcode : IllegalWord 0x0000 ∧ IllegalWord 0xFFF7 ∧ IllegalWord 0x000F := by decide
theorem witness_IllegalWords_upper_bits : IllegalWord 0x0011 ∧ IllegalWord 0xFFF6 := by decide
theorem witness_IllegalWords_value_bits : IllegalWord 0x2005 ∧ IllegalWord 0xFFF5 ∧ ¬ IllegalWord 0x1FF5 := by decide

theorem witness_StepRunsTheDecodedInstruction :
    (one Profile.base.params 0x0225 0x18 0).requests = ⟨0x0225, 0x18, 0⟩ :: [] ∧
    decode 0x0225 = .ok (.encCfg false true false false 2) := by decide

theorem witness_IdleStep : State.reset.requests = [] := rfl

/-- Two blocks that agree on the parameters and the request and differ in everything else. -/
theorem witness_ResponseDepends :
    let s := one Profile.varC.params 0x0001 0x1900 0
    let t : State := ⟨Profile.varC.params, [⟨0x0001, 0x1900, 0⟩, ⟨0, 0, 0⟩], some ⟨0, .illegalCommand⟩⟩
    s.params = t.params ∧ s.requests = ⟨0x0001, 0x1900, 0⟩ :: [] ∧ t.requests = ⟨0x0001, 0x1900, 0⟩ :: [⟨0, 0, 0⟩] ∧
      s.response ≠ t.response := by decide

theorem witness_RequestsInOrder :
    1 < (⟨Profile.base.params, [⟨1, 0, 0⟩, ⟨0, 0, 0⟩], none⟩ : State).requests.length := by decide

theorem witness_StepKeepsSoundness : (one Profile.varC.params 0x0006 0x20 0).Sound ∧
    step (one Profile.varC.params 0x0006 0x20 0) = .next ⟨Profile.varC.params, [], some ⟨1, .ok⟩⟩ :=
  ⟨⟨by decide, by simp [one]⟩, rfl⟩

theorem witness_ResetIsSound : Profile.varB.params.WF := by decide

/-- Each status answers some request. -/
theorem witness_StatusCauses :
    answerTo Profile.base.params 0x0000 0 0 = some ⟨0, .illegalCommand⟩ ∧
    answerTo Profile.base.params 0x0006 0 0 = some ⟨0, .unsupportedOperation⟩ ∧
    answerTo Profile.base.params 0x0002 0x7F800001 0 = some ⟨0, .invalidInput⟩ ∧
    answerTo Profile.base.params 0x0003 0x7F800000 0 = some ⟨0, .invalidInput⟩ ∧
    answerTo Profile.base.params 0x0003 0 0xFF800000 = some ⟨0, .invalidInput⟩ := by decide

theorem witness_ErrorsGiveZero :
    step (one Profile.base.params 0x0006 0x22 0) = .next ⟨Profile.base.params, [], some ⟨0, .unsupportedOperation⟩⟩ ∧
    Status.unsupportedOperation ≠ Status.ok := ⟨rfl, by decide⟩

/-- Requests that differ only in bits that are not read, for each clause. -/
theorem witness_UnreadBits :
    ((0xABCD197F#32).extractLsb' 0 16) >>> Profile.base.params.shift =
      ((0x00001900#32).extractLsb' 0 16) >>> Profile.base.params.shift ∧
    (0x12345622#32).extractLsb' 0 8 = (0x00000022#32).extractLsb' 0 8 := by decide

theorem witness_OperationsChangeOnlyTheInterface :
    exec .decCfg (one Profile.base.params 0x0004 0x1A 0) = .next ⟨Profile.base.params, [], some ⟨0x1A, .ok⟩⟩ ∧
    exec .decCfg State.reset = .next State.reset := ⟨rfl, rfl⟩

/-- The ends of the raw range, for the admissible ends of FB. -/
theorem witness_DecTemp : (⟨.varC, 12⟩ : Params).WF ∧ (⟨.base, 0⟩ : Params).WF ∧
    (one ⟨.varC, 12⟩ 0x0001 0x8000 0).requests = ⟨0x0001, 0x8000, 0⟩ :: [] := by decide

/-- Both branches of ENC_TEMP and ENC_PAIR. -/
theorem witness_EncTemp_EncPair : isNaN32 0x7FC00000 = true ∧ isInf32 0xFF800000 = true ∧
    isNaN32 0x7F7FFFFF = false ∧ isInf32 0x7F7FFFFF = false := by decide

theorem witness_EncodedValues : Profile.varB.params.WF ∧ isFinite32 0xC3000000 = true ∧
    Profile.varB.params.fracBits = Profile.varB.defaultFracBits := by decide

/-- The tie 5/2 goes to 3. -/
theorem witness_Rounding : 0 < 2 ∧ roundHalfAway 5 2 = 3 ∧ roundHalfAway (-5) 2 = -3 := by decide

/-- 127.75 and -128.25 on BASE: the first values beyond each end. -/
theorem witness_EncTempSaturates :
    isFinite32 0x42FF8000 = true ∧ isFinite32 0xC3004000 = true ∧
    Profile.base.params.nMax < roundHalfAwayQ (val32 0x42FF8000 * 2 ^ Profile.base.params.fracBits) ∧
    roundHalfAwayQ (val32 0xC3004000 * 2 ^ Profile.base.params.fracBits) < Profile.base.params.nMin := by
  decide +kernel

/-- -128.0 on VAR_C, the lowest grid value. -/
theorem witness_GridValues : Profile.varC.params.WF ∧ isFinite32 0xC3000000 = true ∧
    Profile.varC.params.nMin ≤ -4096 ∧ -4096 ≤ Profile.varC.params.nMax ∧
    val32 0xC3000000 = ((-4096 : ℤ) : ℚ) * stepQ Profile.varC.params := by decide +kernel

/-- 127.96875 on VAR_C, the upper end of the range, and a value between two steps. -/
theorem witness_Quantisation : Profile.varC.params.WF ∧ isFinite32 0x42FFF000 = true ∧ isFinite32 0x3DCCCCCD = true ∧
    val32 0x42FFF000 = Profile.varC.params.nMax * stepQ Profile.varC.params ∧
    Profile.varC.params.nMin * stepQ Profile.varC.params ≤ val32 0x3DCCCCCD ∧
    val32 0x3DCCCCCD ≤ Profile.varC.params.nMax * stepQ Profile.varC.params := by decide +kernel

/-- The ties at both bounds on BASE. -/
theorem witness_OutOfRange :
    (Profile.base.params.nMax + 1 / 2) * stepQ Profile.base.params ≤ val32 0x42FF8000 ∧
    val32 0xC3004000 ≤ (Profile.base.params.nMin - 1 / 2) * stepQ Profile.base.params := by decide +kernel

theorem witness_Monotone : isFinite32 0xBF000000 = true ∧ isFinite32 0x00000001 = true ∧
    val32 0xBF000000 ≤ val32 0x00000001 := by decide +kernel

theorem witness_EncodeAfterDecode : Profile.varB.params.WF := by decide

/-- 127.5 on BASE: N is NMAX. -/
theorem witness_Odd : isFinite32 0x42FF0000 = true ∧
    |roundHalfAwayQ (val32 0x42FF0000 * 2 ^ Profile.base.params.fracBits)| ≤ Profile.base.params.nMax := by decide +kernel

theorem witness_ThresholdPair : isFinite32 0x41200000 = true ∧ isFinite32 0x41A00000 = true := by decide

/-- The largest finite value, whose product overflows. -/
theorem witness_BinaryProduct : Profile.varC.params.WF ∧ isFinite32 0x7F7FFFFF = true ∧
    isInf32 (f32Nearest false (f32MagUnits 0x7F7FFFFF * 2 ^ Profile.varC.params.fracBits) f32One) = true := by
  decide +kernel

theorem witness_EncCfgWords : (0x1FF5#16) &&& 0xE00F#16 = 0x0005#16 := by decide

theorem witness_SetMode :
    (⟨Profile.base.params, [assemble (.setMode 0x18 .interrupt)], none⟩ : State).requests =
      assemble (.setMode 0x18 .interrupt) :: [] := rfl

/-- U bits on and off, and disjoint updates. -/
theorem witness_ConfigFieldLaws : (0b0010#4).getLsbD 0 = false ∧ (0b0010#4).getLsbD 1 = true ∧
    0b0010#4 &&& 0b1001#4 = 0 := by decide

theorem witness_no_transfer_fails : (∀ ch ∈ sysP1.choices, ch.fails = false) ∧ sysP1.keepsFields = true ∧
    sysP1.block.params.WF := by decide

theorem witness_InvalidThresholds : (isFinite32 0x7FC00000 && isFinite32 0x41200000) = false := by decide

theorem witness_FailedConfigRead : sysFailing.choice.fails = true := by decide

theorem witness_RegisterBytes : RegName.high ∈ [RegName.temp, .low, .high] := by decide

end Sys2Proof.Tests
end

section
/-! PROOFS. What one step does with a request, and the statements on reset and on the profile table. -/

namespace Sys2Proof.Machine

/-- One step on a request in progress delivers `respond` of it and leaves the requests behind it. -/
theorem step_cons {s : State} {q : Request} {rest : List Request} (h : s.requests = q :: rest) :
    step s = .next (s.deliver rest (respond s.params q)) := by
  rw [step_eq_answer, State.answer, serve_cons h]

/-- Settles O1: reset's three fields, and the rule for one step on a request in progress. -/
theorem resetKeepsOnlyConstructionParameters : Obligations.ResetKeepsOnlyConstructionParameters := by
  intro p
  have hstep (q : Request) : step { State.resetWith p with requests := [q] } =
      .next ((State.resetWith p).deliver [] (respond p q)) := step_cons rfl
  exact ⟨resetWith_params p, resetWith_requests p, resetWith_response p, hstep⟩

end Sys2Proof.Machine

namespace Sys2Proof

/-- R21: has_alert is membership of CLEAR_ALERT in CAPS. -/
theorem Profile.hasAlert_iff_mem_caps (pr : Profile) : pr.hasAlert = true ↔ Capability.clearAlert ∈ pr.caps := by
  rw [Profile.hasAlert, List.contains_iff_mem]

/-- R21: only VAR_C has CLEAR_ALERT. -/
theorem Profile.clearAlert_mem_caps_iff (pr : Profile) : Capability.clearAlert ∈ pr.caps ↔ pr = .varC := by
  cases pr <;> simp [Profile.caps]

/-- R21: only VAR_C has has_alert. -/
theorem Profile.hasAlert_iff (pr : Profile) : pr.hasAlert = true ↔ pr = .varC :=
  pr.hasAlert_iff_mem_caps.trans pr.clearAlert_mem_caps_iff

/-- Settles O2: each column of the table by computation, has_alert on every profile by its two characterisations. -/
theorem profileTableValues : Obligations.ProfileTableValues := by
  refine ⟨?tempBits, ?defaultFracBits, ?registers, ?caps, fun pr => ⟨pr.hasAlert_iff_mem_caps, pr.hasAlert_iff⟩⟩
  case tempBits => decide
  case defaultFracBits => decide
  case registers => decide
  case caps => decide

end Sys2Proof
end

section
/-! PROOFS. The words of ENC_CFG's row of the opcode table, SET_MODE's two among them: what they decode to, and what a step
on one answers. -/

namespace Sys2Proof

/-- Under its mask, ENC_CFG's row fixes OP = 5 and V_RSV = 0 (rules R61, R63). -/
theorem fields_of_encCfgRow {cmd : Word16} (h : cmd &&& 0xE00F#16 = 0x0005#16) :
    opField cmd = 5#4 ∧ reservedField cmd = 0#3 := by
  constructor
  case left =>
    have hop : (cmd &&& 0xE00F#16).extractLsb' 0 4 = 5#4 := by rw [h]; decide
    rwa [BitVec.extractLsb'_and, show (0xE00F#16).extractLsb' 0 4 = BitVec.allOnes 4 by decide,
      BitVec.and_allOnes] at hop
  case right =>
    have hrsv : (cmd &&& 0xE00F#16).extractLsb' 13 3 = 0#3 := by rw [h]; decide
    rwa [BitVec.extractLsb'_and, show (0xE00F#16).extractLsb' 13 3 = BitVec.allOnes 3 by decide,
      BitVec.and_allOnes] at hrsv

/-- A word of ENC_CFG's row decodes to the ENC_CFG with its U bits and V (rule R63). -/
theorem decode_of_encCfgRow {cmd : Word16} (h : cmd &&& 0xE00F#16 = 0x0005#16) :
    decode cmd =
      .ok (.encCfg (cmd.getLsbD 4) (cmd.getLsbD 5) (cmd.getLsbD 6) (cmd.getLsbD 7) (valueField cmd)) := by
  obtain ⟨hop, hrsv⟩ := fields_of_encCfgRow h
  have hdecode : decode cmd = decodeEncCfg cmd := by simp [decode, hop]
  simp [hdecode, decodeEncCfg, hrsv]

/-- Settles O5: the ENC_CFG words by their row of the opcode table, the others by computation. -/
theorem writtenWordsDecode : Obligations.WrittenWordsDecode := by
  refine ⟨?decTemp, ?encTemp, ?encPair, ?decCfg, ?chkAlert, ?sdFq, ?allFields, ?modeOnly, ?noField,
    ?opcode, ?upperBits, ?valueBits⟩
  case decTemp => decide
  case encTemp => decide
  case encPair => decide
  case decCfg => decide
  case chkAlert => decide
  case sdFq => exact decode_of_encCfgRow (by decide)
  case allFields => exact decode_of_encCfgRow (by decide)
  case modeOnly => exact decode_of_encCfgRow (by decide)
  case noField => exact decode_of_encCfgRow (by decide)
  case opcode => decide
  case upperBits => decide
  case valueBits => decide

end Sys2Proof

namespace Sys2Proof.Machine

/-- The response to a request whose command word decodes is its operation's. -/
theorem respond_of_decode {q : Request} {i : Instr} (h : decode q.cmd = .ok i) (p : Params) :
    respond p q = respondTo i p q := by
  simp only [respond, h]

/-- R102: R[31:8] of ENC_CFG is zero and R[7:0] the merge; S is OK. -/
theorem encCfgResponse_eq (uSd uMode uPol uFq : Bool) (v : Byte) (p : Params) (q : Request) :
    encCfgResponse uSd uMode uPol uFq v p q =
      ⟨(mergeFields q.cfg v (fieldMask uSd uMode uPol uFq)).setWidth 32, .ok⟩ := by
  rw [BitVec.setWidth_eq_append (by decide : 8 ≤ 32)]
  rfl

/-- One step on a word that decodes to an ENC_CFG, in every profile (rules R64, R102). -/
theorem step_of_decode_encCfg {s : State} {q : Request} {rest : List Request} {uSd uMode uPol uFq : Bool} {v : Byte}
    (hreq : s.requests = q :: rest) (hdec : decode q.cmd = .ok (.encCfg uSd uMode uPol uFq v)) :
    step s = .next (s.deliver rest
      ⟨(mergeFields q.cfg v (fieldMask uSd uMode uPol uFq)).setWidth 32, .ok⟩) := by
  rw [step_cons hreq, respond_of_decode hdec, respondTo, encCfgResponse_eq]

/-- Settles O37: a word of ENC_CFG's row decodes to its U bits and V, and the step merges V under the mask of U. -/
theorem encCfgWordsMergeUnderTheFieldMask : Obligations.EncCfgWordsMergeUnderTheFieldMask :=
  fun _ _ _ hreq hrow => step_of_decode_encCfg hreq (decode_of_encCfgRow hrow)

/-- The two words of SET_MODE (rule R71). -/
theorem assemble_setMode_cmd (c : Byte) (m : Mode) :
    (assemble (.setMode c m)).cmd = if m = .interrupt then 0x0225#16 else 0x0025#16 := by
  cases m <;> rfl

/-- The operand of SET_MODE is its Config value. -/
theorem assemble_setMode_cfg (c : Byte) (m : Mode) : (assemble (.setMode c m)).cfg = c := by
  simp [Request.cfg, assemble, AsmLine.operands, BitVec.extractLsb'_setWidth_of_le]

/-- SET_MODE's words are of ENC_CFG's row and name MODE alone. -/
theorem decode_assemble_setMode (c : Byte) (m : Mode) :
    decode (assemble (.setMode c m)).cmd =
      .ok (.encCfg false true false false (fieldValues none (some m.bit) none none)) := by
  rw [assemble_setMode_cmd]
  cases m <;> exact decode_of_encCfgRow (by decide)

/-- A disassembler recognises SET_MODE by its word (rule R71). -/
theorem setModeOf_assemble_setMode (c : Byte) (m : Mode) : setModeOf (assemble (.setMode c m)).cmd = some m := by
  rw [assemble_setMode_cmd]
  cases m <;> decide

/-- SET_MODE's merge replaces MODE and keeps every other bit (rule R103). -/
theorem mergeFields_mode (c : Byte) (m : Mode) :
    mergeFields c (fieldValues none (some m.bit) none none) (fieldMask false true false false) =
      (c &&& 0xFD#8) ||| ((BitVec.ofBool m.bit).setWidth 8 <<< 1) := by
  cases m <;> rfl

/-- Settles O38: SET_MODE's word decodes to the ENC_CFG that names MODE alone, so the step merges that bit. -/
theorem setModeReplacesOnlyTheModeBit : Obligations.SetModeReplacesOnlyTheModeBit := by
  intro s rest c m hreq
  refine ⟨assemble_setMode_cmd c m, setModeOf_assemble_setMode c m, rfl, ?step⟩
  rw [step_of_decode_encCfg hreq (decode_assemble_setMode c m), assemble_setMode_cfg, mergeFields_mode]

end Sys2Proof.Machine
end

section
/-! PROOFS. The temperature codec: what DEC_TEMP, ENC_TEMP and ENC_PAIR answer, in exact values, and the saturation of the
encoding. -/

namespace Sys2Proof.Machine

/-- Every operation answers the request in progress with its response and leaves the requests behind it. -/
theorem exec_cons {s : State} {q : Request} {rest : List Request} (h : s.requests = q :: rest) (i : Instr) :
    exec i s = .next (s.deliver rest (respondTo i s.params q)) := by
  rw [exec_eq_answer, State.answer, serve_cons h]

/-! ### Finite patterns -/

/-- A finite pattern is neither a NaN nor an infinity (rule R12). -/
theorem isFinite32_iff (b : Word32) : isFinite32 b = true ↔ ¬ (isNaN32 b = true ∨ isInf32 b = true) := by
  simp [isFinite32]

/-- An exponent field below its maximum is neither a NaN's nor an infinity's (rule R12). -/
theorem not_nan_not_inf_of_exp_lt {b : Word32} (h : f32Exp b < 255) : isNaN32 b = false ∧ isInf32 b = false := by
  have hne : f32Exp b ≠ 0xFF := by omega
  simp [isNaN32, isInf32, hne]

/-- Both operands are finite exactly where none is a NaN or an infinity. -/
theorem isFinite32_and_iff (a b : Word32) : (isFinite32 a && isFinite32 b) = true ↔
    ¬ (isNaN32 a = true ∨ isInf32 a = true ∨ isNaN32 b = true ∨ isInf32 b = true) := by
  rw [Bool.and_eq_true, isFinite32_iff, isFinite32_iff, ← not_or, or_assoc]

/-- The INVALID_INPUT gate, with its condition given as the cause of the error (rules R86, R87). -/
theorem requireValid_eq_ite {v : Bool} {bad : Prop} [Decidable bad] (h : v = true ↔ ¬ bad) (w : Word32) :
    Response.requireValid v (.done w) = if bad then ⟨0, .invalidInput⟩ else ⟨w, .ok⟩ := by
  by_cases hbad : bad
  · have hv : v = false := by simpa [hbad] using h
    simp [hv, hbad, Response.requireValid, Response.raise]
  · have hv : v = true := h.2 hbad
    simp [hv, hbad, Response.requireValid, Response.done]

/-! ### DEC_TEMP -/

/-- The range of N fits the 24-bit significand of binary32, in every profile. -/
theorem natAbs_decN_lt (p : Params) (raw : Word16) : (decN p raw).natAbs < 2 ^ 24 := by
  have hbounds := decN_bounds p raw
  obtain ⟨pr, fb⟩ := p
  cases pr <;> simp only [Params.nMin, Params.nMax, Params.tempBits, Profile.tempBits] at hbounds <;> omega

/-- An admissible FB is at most 12, VAR_C's TB - 1 (rule R7). -/
theorem fracBits_le_of_wf {p : Params} (h : p.WF) : p.fracBits ≤ 12 := by
  obtain ⟨pr, fb⟩ := p
  cases pr <;> simp only [Params.WF, Params.tempBits, Profile.tempBits] at h ⊢ <;> omega

theorem val32_zero : val32 0 = 0 := by
  have hunits : f32Units 0 = 0 := by decide
  rw [val32_eq_units, hunits, Int.cast_zero, zero_div]

/-- The pattern of a fixed-point value holds n * 2^(-fb) exactly, zero included (rule R89). -/
theorem val32_f32OfFixed {n : ℤ} {fb : ℕ} (hn : n.natAbs < 2 ^ 24) (hfb : fb ≤ 126) :
    val32 (f32OfFixed n fb) = n * (1 / 2 ^ fb) := by
  by_cases h0 : n = 0
  · rw [h0, f32OfFixed_zero, val32_zero, Int.cast_zero, zero_mul]
  · obtain ⟨hunits, -, -⟩ := f32OfFixed_spec hn hfb h0
    have hpow : (2 : ℚ) ^ 149 = 2 ^ (149 - fb) * 2 ^ fb := by rw [← pow_add]; congr 1; omega
    rw [val32_eq_units, hunits, hpow]
    push_cast
    field_simp

/-- The pattern of a fixed-point value is neither a NaN nor an infinity. -/
theorem f32Exp_f32OfFixed_lt {n : ℤ} {fb : ℕ} (hn : n.natAbs < 2 ^ 24) (hfb : fb ≤ 126) :
    f32Exp (f32OfFixed n fb) < 255 := by
  by_cases h0 : n = 0
  · rw [h0, f32OfFixed_zero]; decide
  · obtain ⟨-, -, hlt⟩ := f32OfFixed_spec hn hfb h0
    exact hlt

/-- DEC_T on rationals is N in steps (rule R84). -/
theorem decTQ_eq (p : Params) (raw : Word16) : decTQ p raw = decN p raw * (1 / 2 ^ p.fracBits) := by
  rw [decTQ, stepQ, decN_eq_sshiftRight]

/-- Settles O20: the pattern holds N * 2^(-FB) exactly, so a zero result comes from N = 0, whose pattern is +0, and the
pattern of any other N is normal. -/
theorem decTempGivesTheExactPattern : Obligations.DecTempGivesTheExactPattern := by
  intro s q rest hwf hreq
  have hn := natAbs_decN_lt s.params q.raw
  have hfb : s.params.fracBits ≤ 126 := (fracBits_le_of_wf hwf).trans (by decide)
  have hval := val32_f32OfFixed hn hfb
  obtain ⟨hnan, hinf⟩ := not_nan_not_inf_of_exp_lt (f32Exp_f32OfFixed_lt hn hfb)
  refine ⟨_, exec_cons hreq .decTemp, hnan, hinf, hval.trans (decTQ_eq s.params q.raw).symm, ?zero, ?normal⟩
  case zero =>
    intro h0
    have hN : decN s.params q.raw = 0 := by simpa [hval] using h0
    rw [hN, f32OfFixed_zero]
  case normal =>
    intro h0
    have hN : decN s.params q.raw ≠ 0 := by
      intro hN
      exact h0 (by rw [hN, f32OfFixed_zero, val32_zero])
    obtain ⟨-, hpos, -⟩ := f32OfFixed_spec hn hfb hN
    exact hpos.ne'

/-! ### ENC_TEMP and ENC_PAIR -/

/-- The integer encoder on a pattern's units is ENC_T of the pattern's value. -/
theorem encT_f32Units (p : Params) (b : Word32) : encT p (f32Units b) = encTQ p (val32 b) := by
  rw [encT_eq, val32_eq_units]

/-- Units of 2^(-149) order patterns as their values do. -/
theorem units_div_monotone : Monotone fun x : ℤ => (x : ℚ) / 2 ^ 149 := by
  intro x y hxy
  have hcast : (x : ℚ) ≤ y := by exact_mod_cast hxy
  exact div_le_div_of_nonneg_right hcast (by positivity)

/-- The integer encoder on the larger count of units is ENC_T of the larger value. -/
theorem encT_max_f32Units (p : Params) (a b : Word32) :
    encT p (max (f32Units a) (f32Units b)) = encTQ p (max (val32 a) (val32 b)) := by
  rw [encT_eq, val32_eq_units a, val32_eq_units b, ← units_div_monotone.map_max]

/-- The integer encoder on the smaller count of units is ENC_T of the smaller value. -/
theorem encT_min_f32Units (p : Params) (a b : Word32) :
    encT p (min (f32Units a) (f32Units b)) = encTQ p (min (val32 a) (val32 b)) := by
  rw [encT_eq, val32_eq_units a, val32_eq_units b, ← units_div_monotone.map_min]

/-- The response of ENC_TEMP in exact values (rule R86). -/
theorem encTempResponse_eq (p : Params) (q : Request) : encTempResponse p q =
    if isNaN32 q.a = true ∨ isInf32 q.a = true then ⟨0, .invalidInput⟩
    else ⟨(encTQ p (val32 q.a)).setWidth 32, .ok⟩ := by
  rw [BitVec.setWidth_eq_append (by decide : 16 ≤ 32), ← encT_f32Units]
  exact requireValid_eq_ite (isFinite32_iff q.a) _

/-- The response of ENC_PAIR in exact values (rule R87). -/
theorem encPairResponse_eq (p : Params) (q : Request) : encPairResponse p q =
    if isNaN32 q.a = true ∨ isInf32 q.a = true ∨ isNaN32 q.b = true ∨ isInf32 q.b = true then ⟨0, .invalidInput⟩
    else ⟨encTQ p (max (val32 q.a) (val32 q.b)) ++ encTQ p (min (val32 q.a) (val32 q.b)), .ok⟩ := by
  rw [← encT_max_f32Units, ← encT_min_f32Units]
  exact requireValid_eq_ite (isFinite32_and_iff q.a q.b) _

/-- Settles O21: ENC_TEMP's response in exact values. -/
theorem encTempGivesTheEncodedValue : Obligations.EncTempGivesTheEncodedValue := by
  intro s q rest hreq
  rw [exec_cons hreq, respondTo, encTempResponse_eq]

/-- Settles O22: ENC_PAIR's response in exact values. -/
theorem encPairSortsAndEncodes : Obligations.EncPairSortsAndEncodes := by
  intro s q rest hreq
  rw [exec_cons hreq, respondTo, encPairResponse_eq]

/-! ### Saturation -/

/-- A value that rounds to NMAX or above encodes as RAW_MAX (rule R83). -/
theorem encTQ_eq_rawMax {p : Params} {x : ℚ} (h : p.nMax ≤ roundHalfAwayQ (x * 2 ^ p.fracBits)) :
    encTQ p x = p.rawMax := by
  rw [encTQ, encNQ, min_eq_left h, max_eq_right (nMin_le_nMax p), Params.rawMax]

/-- A value that rounds to NMIN or below encodes as RAW_MIN (rule R83). -/
theorem encTQ_eq_rawMin {p : Params} {x : ℚ} (h : roundHalfAwayQ (x * 2 ^ p.fracBits) ≤ p.nMin) :
    encTQ p x = p.rawMin := by
  rw [encTQ, encNQ, min_eq_right (h.trans (nMin_le_nMax p)), max_eq_left h, Params.rawMin]

/-- RAW_MIN is one word in every profile, as NMIN * 2^SH = -2^15 (rule R15). -/
theorem rawMin_eq (p : Params) : p.rawMin = 0x8000#16 := by
  obtain ⟨pr, fb⟩ := p
  cases pr <;> rfl

/-- The response of ENC_TEMP to a finite operand (rule R86). -/
theorem encTempResponse_of_finite {q : Request} (h : isFinite32 q.a = true) (p : Params) :
    encTempResponse p q = ⟨(encTQ p (val32 q.a)).setWidth 32, .ok⟩ := by
  rw [encTempResponse_eq, if_neg ((isFinite32_iff q.a).1 h)]

/-- At the default FB, NMIN stands for -128 (rules R7, R15). -/
theorem nMin_default (pr : Profile) : pr.params.nMin = -128 * 2 ^ pr.params.fracBits := by
  cases pr <;> rfl

/-- At the default FB, NMAX is one step below 128 (rules R7, R15). -/
theorem nMax_default (pr : Profile) : pr.params.nMax = 128 * 2 ^ pr.params.fracBits - 1 := by
  cases pr <;> rfl

/-- Settles O25: beyond each end the clamp gives that end's N, whose raw value is RAW_MAX or RAW_MIN. -/
theorem encTempSaturates : Obligations.EncTempSaturates := by
  refine ⟨fun s q rest hreq hfin => ⟨fun habove => ?above, fun hbelow => ?below⟩, fun pr => ⟨?lower, ?upper⟩⟩
  case above =>
    rw [exec_cons hreq, respondTo, encTempResponse_of_finite hfin, encTQ_eq_rawMax habove.le]
  case below =>
    rw [exec_cons hreq, respondTo, encTempResponse_of_finite hfin, encTQ_eq_rawMin hbelow.le, rawMin_eq]
    rfl
  case lower =>
    rw [nMin_default, stepQ]
    push_cast
    field_simp
  case upper =>
    rw [nMax_default, stepQ]
    push_cast
    field_simp

end Sys2Proof.Machine
end

section
/-! PROOFS. What DEC_CFG and CHK_ALERT answer: the named bits of a Config value with the alert-valid bit, and the latch on
the profile that has it. -/

namespace Sys2Proof.Params

/-- R21: a block has has_alert exactly in VAR_C. -/
theorem hasAlert_iff (p : Params) : p.hasAlert = true ↔ p.profile = .varC :=
  p.profile.hasAlert_iff

/-- NAMED by profile (rules R21, R100). -/
theorem namedMask_eq (p : Params) : p.namedMask = if p.profile = .varC then 0x3F#8 else 0x1F#8 :=
  if_congr p.hasAlert_iff rfl rfl

/-- The bits of NAMED: the fields below ALERT, and ALERT where the profile has it (rule R100). -/
theorem getLsbD_namedMask (p : Params) (i : Nat) :
    p.namedMask.getLsbD i = (decide (i < 5) || (decide (i = 5) && p.hasAlert)) := by
  obtain hi | hi := Nat.lt_or_ge i 8
  · rw [namedMask, apply_ite (BitVec.getLsbD · i)]
    interval_cases i <;> simp
  · have hbelow : ¬ i < 5 := by omega
    have halert : i ≠ 5 := by omega
    simp [BitVec.getLsbD_of_ge _ _ hi, hbelow, halert]

end Sys2Proof.Params

namespace Sys2Proof.Machine

/-! ### DEC_CFG -/

/-- The name of a MODE bit stands for that bit (rule R106). -/
@[simp] theorem Mode.bit_ofBit (b : Bool) : (Mode.ofBit b).bit = b := by
  cases b <;> rfl

/-- The alert field of a snapshot is valid exactly on a profile with CLEAR_ALERT (rule R32). -/
theorem ofConfig_alert_isSome (p : Params) (c : Byte) :
    (Snapshot.ofConfig p c).alert.isSome = p.hasAlert := by
  cases h : p.hasAlert <;> simp [Snapshot.ofConfig, h]

/-- ALERT is read as 0 on a profile without CLEAR_ALERT (rule R101). -/
theorem ofConfig_alert_getD (p : Params) (c : Byte) :
    (Snapshot.ofConfig p c).alert.getD false = (p.hasAlert && c.getLsbD 5) := by
  cases h : p.hasAlert <;> simp [Snapshot.ofConfig, h]

/-- Each bit of a packed snapshot (rules R66, R101). -/
theorem getLsbD_pack (n : Snapshot) (i : Nat) : n.pack.getLsbD i =
    if i = 0 then n.shutdown
    else if i = 1 then n.mode.bit
    else if i = 2 then n.osPolarity
    else if i < 5 then n.faultQueue.getLsbD (i - 3)
    else if i = 5 then n.alert.getD false
    else if i = 8 then n.alert.isSome
    else false := by
  rw [Snapshot.pack, BitVec.getLsbD_append]
  simp only [BitVec.getLsbD_append, BitVec.getLsbD_ofBool, BitVec.getLsbD_zero]
  obtain hi | hi := Nat.lt_or_ge i 9
  · interval_cases i <;> simp
  · grind

/-- The pseudocode of R101, bit by bit, is its closed form: every field of a Config value keeps its position. -/
theorem pack_ofConfig (p : Params) (c : Byte) : (Snapshot.ofConfig p c).pack =
    (c &&& p.namedMask).setWidth 32 ||| (if p.hasAlert then 0x100#32 else 0#32) := by
  apply BitVec.eq_of_getLsbD_eq
  intro i hi
  rw [getLsbD_pack, ofConfig_alert_isSome, ofConfig_alert_getD, BitVec.getLsbD_or, BitVec.getLsbD_setWidth,
    BitVec.getLsbD_and, Params.getLsbD_namedMask, apply_ite (BitVec.getLsbD · i)]
  interval_cases i <;> simp [Snapshot.ofConfig, Bool.and_comm]

/-- The response of DEC_CFG in closed form (rule R101). -/
theorem decCfgResponse_eq (p : Params) (q : Request) : decCfgResponse p q =
    ⟨(q.cfg &&& (if p.profile = .varC then 0x3F#8 else 0x1F#8)).setWidth 32 |||
      (if p.profile = .varC then 0x100#32 else 0#32), .ok⟩ := by
  rw [decCfgResponse, pack_ofConfig, p.namedMask_eq, if_congr p.hasAlert_iff rfl rfl, Response.done]

/-- Settles O35: the closed form of DEC_CFG's response. -/
theorem decCfgReportsTheNamedBits : Obligations.DecCfgReportsTheNamedBits := by
  intro s q rest hreq
  rw [exec_cons hreq, respondTo, decCfgResponse_eq, Request.cfg]

/-! ### CHK_ALERT -/

/-- The UNSUPPORTED_OPERATION gate lets a response through on VAR_C alone (rules R21, R104). -/
theorem requireAlert_eq_ite (p : Params) (r : Response) :
    Response.requireAlert p r = if p.profile = .varC then r else ⟨0, .unsupportedOperation⟩ :=
  if_congr p.hasAlert_iff rfl rfl

/-- A flag zero-extended to a result word. -/
theorem append_ofBool_eq_ite (b : Bool) : 0#31 ++ BitVec.ofBool b = if b then 1#32 else 0#32 := by
  cases b <;> rfl

/-- The Config operand is the low byte of A. -/
theorem getLsbD_cfg (q : Request) {i : Nat} (hi : i < 8) : q.cfg.getLsbD i = q.a.getLsbD i := by
  simp [Request.cfg, hi]

/-- The response of CHK_ALERT (rule R104). -/
theorem chkAlertResponse_eq (p : Params) (q : Request) : chkAlertResponse p q =
    if p.profile = .varC then ⟨if q.a.getLsbD 5 then 1 else 0, .ok⟩ else ⟨0, .unsupportedOperation⟩ := by
  rw [chkAlertResponse, requireAlert_eq_ite, append_ofBool_eq_ite, getLsbD_cfg q (by decide : 5 < 8)]
  rfl

/-- Settles O39: the response of CHK_ALERT, behind the gate on the profile. -/
theorem chkAlertTestsTheLatch : Obligations.ChkAlertTestsTheLatch := by
  intro s q rest hreq
  rw [exec_cons hreq, respondTo, chkAlertResponse_eq]

end Sys2Proof.Machine
end

section
/-! PROOFS. The decoder on every word: which words it rejects, and the one word of each operation without fields. -/

namespace Sys2Proof

/-- The operations that have one command word: all but ENC_CFG (rule R62). -/
def plainInstrs : List Instr := [.decTemp, .encTemp, .encPair, .decCfg, .chkAlert]

/-- What the decoder does with a word, by its OP (rules R61 to R63, R67). -/
theorem decode_cases (cmd : Word16) :
    (∃ i ∈ plainInstrs, opField cmd = opField (encode i) ∧ decode cmd = decodePlain cmd i) ∨
    (opField cmd = 5#4 ∧ decode cmd = decodeEncCfg cmd) ∨
    ((opField cmd = 0#4 ∨ 7#4 ≤ opField cmd) ∧ decode cmd = .error (.illegalOpcode (opField cmd))) := by
  unfold decode
  split
  next h => exact .inl ⟨.decTemp, by decide, BitVec.eq_of_toNat_eq h, rfl⟩
  next h => exact .inl ⟨.encTemp, by decide, BitVec.eq_of_toNat_eq h, rfl⟩
  next h => exact .inl ⟨.encPair, by decide, BitVec.eq_of_toNat_eq h, rfl⟩
  next h => exact .inl ⟨.decCfg, by decide, BitVec.eq_of_toNat_eq h, rfl⟩
  next h => exact .inr (.inl ⟨BitVec.eq_of_toNat_eq h, rfl⟩)
  next h => exact .inl ⟨.chkAlert, by decide, BitVec.eq_of_toNat_eq h, rfl⟩
  next h1 h2 h3 h4 h5 h6 =>
    simp only [imp_false] at h1 h2 h3 h4 h5 h6
    have hop : opField cmd = 0#4 ∨ 7#4 ≤ opField cmd := by bv_omega
    exact .inr (.inr ⟨hop, rfl⟩)

/-- A command word is OP below CMD[15:4] (rules R60, R62). -/
theorem upperField_append_opField (cmd : Word16) : upperField cmd ++ opField cmd = cmd := by
  rw [upperField, opField, BitVec.extractLsb'_append_extractLsb'_eq_extractLsb' (by decide), BitVec.extractLsb'_eq_self]

/-- An operation without fields stands behind the check of CMD[15:4] (rule R62). -/
theorem decodePlain_eq_ok_iff {cmd : Word16} {i j : Instr} :
    decodePlain cmd i = .ok j ↔ upperField cmd = 0#12 ∧ i = j := by
  by_cases h : upperField cmd = 0#12 <;> simp [decodePlain, h]

/-- Case (b) of rule R67. -/
theorem decodePlain_eq_error_iff {cmd : Word16} {i : Instr} :
    (∃ e, decodePlain cmd i = .error e) ↔ upperField cmd ≠ 0#12 := by
  by_cases h : upperField cmd = 0#12 <;> simp [decodePlain, h]

/-- Case (c) of rule R67. -/
theorem decodeEncCfg_eq_error_iff {cmd : Word16} :
    (∃ e, decodeEncCfg cmd = .error e) ↔ reservedField cmd ≠ 0#3 := by
  by_cases h : reservedField cmd = 0#3 <;> simp [decodeEncCfg, h]

/-- No word decodes as an ENC_CFG to an operation without fields. -/
theorem decodeEncCfg_ne_ok {i : Instr} (hi : i ∈ plainInstrs) (cmd : Word16) : decodeEncCfg cmd ≠ .ok i := by
  unfold decodeEncCfg
  split
  · rintro ⟨⟩
    simp [plainInstrs] at hi
  · rintro ⟨⟩

/-- An operation without fields has one command word (rules R61, R62). -/
theorem decode_eq_ok_iff_of_plain {i : Instr} (hi : i ∈ plainInstrs) (cmd : Word16) :
    decode cmd = .ok i ↔ cmd = encode i := by
  constructor
  · intro h
    obtain ⟨j, -, hop, hdec⟩ | ⟨-, hdec⟩ | ⟨-, hdec⟩ := decode_cases cmd
    · obtain ⟨hupper, rfl⟩ := decodePlain_eq_ok_iff.1 (hdec.symm.trans h)
      have hword : ∀ i ∈ plainInstrs, 0#12 ++ opField (encode i) = encode i := by decide
      rw [← upperField_append_opField cmd, hupper, hop, hword j hi]
    · exact absurd (hdec.symm.trans h) (decodeEncCfg_ne_ok hi cmd)
    · exact absurd (hdec.symm.trans h) nofun
  · rintro rfl
    revert i
    decide

end Sys2Proof

namespace Sys2Proof.Machine

/-- The three cases of rule R67 over the fields the decoder reads. -/
theorem illegalWord_iff_fields (cmd : Word16) : IllegalWord cmd ↔
    (opField cmd = 0#4 ∨ 7#4 ≤ opField cmd) ∨
    ((opField cmd = 1#4 ∨ opField cmd = 2#4 ∨ opField cmd = 3#4 ∨ opField cmd = 4#4 ∨ opField cmd = 6#4) ∧
      upperField cmd ≠ 0#12) ∨
    (opField cmd = 5#4 ∧ reservedField cmd ≠ 0#3) := Iff.rfl

/-- The decoder rejects exactly the illegal words (rules R67, R69). -/
theorem decode_eq_error_iff (cmd : Word16) : (∃ e, decode cmd = .error e) ↔ IllegalWord cmd := by
  rw [illegalWord_iff_fields]
  obtain ⟨i, hi, hop, hdec⟩ | ⟨hop, hdec⟩ | ⟨hop, hdec⟩ := decode_cases cmd
  · rw [hdec, decodePlain_eq_error_iff, hop]
    revert i
    simp [plainInstrs, encode, opField]
  · rw [hdec, decodeEncCfg_eq_error_iff, hop]
    simp
  · simp [hdec, hop]

end Sys2Proof.Machine
end

section
/-! PROOFS. The status of a response: its causes, and what an error gives. -/

namespace Sys2Proof.Machine

/-- The response to a word that does not decode (rule R67). -/
theorem respond_of_decode_error {q : Request} {e : Reject} (h : decode q.cmd = .error e) (p : Params) :
    respond p q = .raise .illegalCommand := by
  simp only [respond, h, illegalCommandResponse]

/-- When each error status answers a decoded operation (rules R86, R87, R104, R120). -/
theorem respondTo_status (i : Instr) (p : Params) (q : Request) :
    (respondTo i p q).status ≠ .illegalCommand ∧
    ((respondTo i p q).status = .unsupportedOperation ↔ i = .chkAlert ∧ p.profile ≠ .varC) ∧
    ((respondTo i p q).status = .invalidInput ↔
      (i = .encTemp ∧ (isNaN32 q.a = true ∨ isInf32 q.a = true)) ∨
      (i = .encPair ∧ (isNaN32 q.a = true ∨ isInf32 q.a = true ∨ isNaN32 q.b = true ∨ isInf32 q.b = true))) := by
  cases i with
  | decTemp => simp [respondTo, decTempResponse]
  | encTemp => rw [respondTo, encTempResponse_eq]; split <;> simp [*]
  | encPair => rw [respondTo, encPairResponse_eq]; split <;> simp [*]
  | decCfg => simp [respondTo, decCfgResponse]
  | encCfg => simp [respondTo, encCfgResponse]
  | chkAlert => rw [respondTo, chkAlertResponse_eq]; split <;> simp [*]

/-- Settles O16: the decoder checks the command word first, and an operation's own gate decides the rest. -/
theorem statusCausesAndPriority : Obligations.StatusCausesAndPriority := by
  refine ⟨rfl, rfl, rfl, rfl, fun s q rest hreq => ⟨_, step_cons hreq, ?_⟩⟩
  have hchk : decode q.cmd = .ok .chkAlert ↔ q.cmd = 0x0006 := decode_eq_ok_iff_of_plain (by decide) q.cmd
  have htemp : decode q.cmd = .ok .encTemp ↔ q.cmd = 0x0002 := decode_eq_ok_iff_of_plain (by decide) q.cmd
  have hpair : decode q.cmd = .ok .encPair ↔ q.cmd = 0x0003 := decode_eq_ok_iff_of_plain (by decide) q.cmd
  rw [← decode_eq_error_iff, ← hchk, ← htemp, ← hpair]
  cases hdec : decode q.cmd with
  | error e => simp [respond_of_decode_error hdec]
  | ok i =>
    obtain ⟨hillegal, hunsupported, hinvalid⟩ := respondTo_status i s.params q
    simp [respond_of_decode hdec, hillegal, hunsupported, hinvalid]

/-- A response is one with S = OK, or a `raise` (rule R13). -/
theorem respond_done_or_raise (p : Params) (q : Request) :
    (∃ w, respond p q = .done w) ∨ ∃ st, respond p q = .raise st := by
  cases hdec : decode q.cmd with
  | error e => exact .inr ⟨_, respond_of_decode_error hdec p⟩
  | ok i =>
    rw [respond_of_decode hdec]
    cases i with
    | decTemp => exact .inl ⟨_, rfl⟩
    | encTemp => exact (requireValid_cases _ _).imp (⟨_, ·.2⟩) (⟨_, ·.2⟩)
    | encPair => exact (requireValid_cases _ _).imp (⟨_, ·.2⟩) (⟨_, ·.2⟩)
    | decCfg => exact .inl ⟨_, rfl⟩
    | encCfg uSd uMode uPol uFq v => exact .inl ⟨_, rfl⟩
    | chkAlert => exact (requireAlert_cases _ _).imp (⟨_, ·.2⟩) (⟨_, ·.2⟩)

/-- Settles O17: the step delivers `respond` of the request alone, and a response with S not OK is a `raise`. -/
theorem errorsGiveZeroAndNothingElse : Obligations.ErrorsGiveZeroAndNothingElse := by
  intro s t q rest r hreq hstep hresp herr
  obtain rfl : s.deliver rest (respond s.params q) = t := by simpa [step_cons hreq] using hstep
  obtain rfl : respond s.params q = r := by simpa using hresp
  obtain ⟨w, hdone⟩ | ⟨st, hraise⟩ := respond_done_or_raise s.params q
  · exact absurd (congrArg Response.status hdone) herr
  · rw [hraise]
    exact ⟨rfl, rfl⟩

end Sys2Proof.Machine
end

section
/-! PROOFS. Decoding against encoding and against the rows of the opcode table, and the number of the illegal words. -/

namespace Sys2Proof

/-- Bit i of V is bit 8 + i of the command word (rule R63). -/
theorem getLsbD_valueField (cmd : Word16) {i : Nat} (hi : i < 8) :
    (valueField cmd).getLsbD i = cmd.getLsbD (8 + i) := by
  simp [valueField, hi]

/-- V_RSV stands in V[7:5] (rule R63). -/
theorem extractLsb'_valueField (cmd : Word16) : (valueField cmd).extractLsb' 5 3 = reservedField cmd := by
  apply BitVec.eq_of_getLsbD_eq
  intro i hi
  have hv : 5 + i < 8 := by omega
  simp only [reservedField, BitVec.getLsbD_extractLsb', hi, getLsbD_valueField cmd hv, ← Nat.add_assoc]

/-- The decoder of ENC_CFG answers with the word's own fields, behind the check of V_RSV (rule R63). -/
theorem decodeEncCfg_eq_ok_iff {cmd : Word16} {i : Instr} : decodeEncCfg cmd = .ok i ↔ reservedField cmd = 0#3 ∧
    .encCfg (cmd.getLsbD 4) (cmd.getLsbD 5) (cmd.getLsbD 6) (cmd.getLsbD 7) (valueField cmd) = i := by
  by_cases h : reservedField cmd = 0#3 <;> simp [decodeEncCfg, h]

/-- Each bit of an ENC_CFG word: OP, then U, then V (rules R60, R63). -/
theorem getLsbD_encode_encCfg (uSd uMode uPol uFq : Bool) (v : Byte) (i : Nat) :
    (encode (.encCfg uSd uMode uPol uFq v)).getLsbD i =
      if i < 4 then (5#4).getLsbD i
      else if i = 4 then uSd
      else if i = 5 then uMode
      else if i = 6 then uPol
      else if i = 7 then uFq
      else v.getLsbD (i - 8) := by
  rw [encode, BitVec.getLsbD_append]
  simp only [BitVec.getLsbD_append, BitVec.getLsbD_ofBool]
  grind

/-- A word with OP = 5 is the ENC_CFG of its own fields. -/
theorem encode_encCfg_fields {cmd : Word16} (hop : opField cmd = 5#4) :
    encode (.encCfg (cmd.getLsbD 4) (cmd.getLsbD 5) (cmd.getLsbD 6) (cmd.getLsbD 7) (valueField cmd)) = cmd := by
  apply BitVec.eq_of_getLsbD_eq
  intro i hi
  rw [getLsbD_encode_encCfg, ← hop]
  obtain hlow | hhigh := Nat.lt_or_ge i 8
  · interval_cases i <;> simp [opField]
  · have hv : i - 8 < 8 := by omega
    have hpos : 8 + (i - 8) = i := by omega
    rw [getLsbD_valueField cmd hv, hpos]
    grind

/-- The fields of an encoded ENC_CFG are those it was made from. -/
theorem fields_of_encode_encCfg (uSd uMode uPol uFq : Bool) (v : Byte) :
    let cmd := encode (.encCfg uSd uMode uPol uFq v)
    (cmd.getLsbD 4 = uSd ∧ cmd.getLsbD 5 = uMode ∧ cmd.getLsbD 6 = uPol ∧ cmd.getLsbD 7 = uFq) ∧
      valueField cmd = v := by
  refine ⟨by simp only [getLsbD_encode_encCfg]; simp, BitVec.eq_of_getLsbD_eq fun i hi => ?_⟩
  rw [getLsbD_valueField _ hi, getLsbD_encode_encCfg]
  grind

/-- A well-formed instruction encodes to a word of its row of the opcode table. -/
theorem encode_and_mask {i : Instr} (h : i.wellFormed = true) : encode i &&& (tableRow i).2 = (tableRow i).1 := by
  cases i with
  | decTemp => exact Laws.EncodedRow.decTemp h
  | encTemp => exact Laws.EncodedRow.encTemp h
  | encPair => exact Laws.EncodedRow.encPair h
  | decCfg => exact Laws.EncodedRow.decCfg h
  | encCfg uSd uMode uPol uFq v => exact Laws.EncodedRow.encCfg uSd uMode uPol uFq v h
  | chkAlert => exact Laws.EncodedRow.chkAlert h

/-- An operation is ENC_CFG or has one command word. -/
theorem Instr.plain_or_encCfg (i : Instr) :
    i ∈ plainInstrs ∨ ∃ uSd uMode uPol uFq v, i = .encCfg uSd uMode uPol uFq v := by
  cases i <;> simp [plainInstrs]

theorem wellFormed_of_plain {i : Instr} (hi : i ∈ plainInstrs) : i.wellFormed = true := by
  revert i
  decide

/-- What a word decodes to is well formed and encodes to that word. -/
theorem encode_of_decode {cmd : Word16} {i : Instr} (h : decode cmd = .ok i) :
    i.wellFormed = true ∧ encode i = cmd := by
  obtain hi | ⟨uSd, uMode, uPol, uFq, v, rfl⟩ := i.plain_or_encCfg
  · exact ⟨wellFormed_of_plain hi, ((decode_eq_ok_iff_of_plain hi cmd).1 h).symm⟩
  · obtain ⟨j, hj, -, hdec⟩ | ⟨hop, hdec⟩ | ⟨-, hdec⟩ := decode_cases cmd
    · obtain ⟨-, rfl⟩ := decodePlain_eq_ok_iff.1 (hdec.symm.trans h)
      simp [plainInstrs] at hj
    · obtain ⟨hrsv, hfields⟩ := decodeEncCfg_eq_ok_iff.1 (hdec.symm.trans h)
      rw [← hfields]
      exact ⟨by simp [Instr.wellFormed, extractLsb'_valueField, hrsv], encode_encCfg_fields hop⟩
    · exact absurd (hdec.symm.trans h) nofun

/-- A well-formed instruction's word decodes to it. -/
theorem decode_encode {i : Instr} (h : i.wellFormed = true) : decode (encode i) = .ok i := by
  obtain hi | ⟨uSd, uMode, uPol, uFq, v, rfl⟩ := i.plain_or_encCfg
  · exact (decode_eq_ok_iff_of_plain hi _).2 rfl
  · obtain ⟨⟨hsd, hmode, hpol, hfq⟩, hv⟩ := fields_of_encode_encCfg uSd uMode uPol uFq v
    rw [decode_of_encCfgRow (encode_and_mask h), hsd, hmode, hpol, hfq, hv]

/-- Settles O6: the decoder reads the fields that the encoder writes, and the checks it makes are well-formedness. -/
theorem decodeAndEncodeAgree : Obligations.DecodeAndEncodeAgree := by
  intro cmd i
  constructor
  · exact encode_of_decode
  · rintro ⟨hwf, rfl⟩
    exact decode_encode hwf

end Sys2Proof

namespace Sys2Proof.Machine

/-- A word matches a row of the opcode table exactly where it decodes to an operation of that row (rules R61, R69). -/
theorem and_mask_eq_iff (cmd : Word16) (j : Instr) :
    cmd &&& (tableRow j).2 = (tableRow j).1 ↔ ∃ i, decode cmd = .ok i ∧ tableRow i = tableRow j := by
  constructor
  · intro h
    obtain hj | ⟨uSd, uMode, uPol, uFq, v, rfl⟩ := j.plain_or_encCfg
    · have hrow : ∀ j ∈ plainInstrs, tableRow j = (encode j, BitVec.allOnes 16) := by decide
      rw [hrow j hj, BitVec.and_allOnes] at h
      exact ⟨j, (decode_eq_ok_iff_of_plain hj cmd).2 h, rfl⟩
    · exact ⟨_, decode_of_encCfgRow h, rfl⟩
  · rintro ⟨i, hdec, hrow⟩
    obtain ⟨hwf, rfl⟩ := encode_of_decode hdec
    rw [← hrow]
    exact encode_and_mask hwf

/-- A word is legal exactly where it decodes (rules R67, R69). -/
theorem not_illegalWord_iff (cmd : Word16) : ¬ IllegalWord cmd ↔ ∃ i, decode cmd = .ok i := by
  rw [← decode_eq_error_iff]
  cases decode cmd <;> simp

/-- Settles O7: a word matches the rows of what it decodes to, so only its own row, and none where it is illegal. -/
theorem opcodeRowsPartitionTheLegalWords : Obligations.OpcodeRowsPartitionTheLegalWords := by
  refine ⟨fun cmd => ?total, fun cmd i hdec => ⟨(not_illegalWord_iff cmd).2 ⟨i, hdec⟩, fun j => ?row⟩,
    fun cmd hill j hmatch => ?none⟩
  case total =>
    rw [← not_illegalWord_iff]
    exact (em _).symm
  case row =>
    rw [and_mask_eq_iff, hdec]
    simp [eq_comm]
  case none =>
    obtain ⟨i, hdec, -⟩ := (and_mask_eq_iff cmd j).1 hmatch
    exact (not_illegalWord_iff cmd).2 ⟨i, hdec⟩ hill

/-! ### The number of the words -/

/-- The ENC_CFG word with U and V[4:0] in bits 12:4 (rule R63). -/
def encCfgWord (n : Nat) : Word16 := BitVec.ofNat 16 (16 * n + 5)

/-- The words of ENC_CFG: 9 free bits (rules R63, R67). -/
def encCfgWords : Finset Word16 := (Finset.range 512).image encCfgWord

/-- The words of the other operations, one each (rule R62). -/
def plainWords : Finset Word16 := (plainInstrs.map encode).toFinset

theorem toNat_encCfgWord {n : Nat} (hn : n < 512) : (encCfgWord n).toNat = 16 * n + 5 := by
  rw [encCfgWord, BitVec.toNat_ofNat]
  omega

theorem card_encCfgWords : encCfgWords.card = 512 := by
  have hinj : Set.InjOn encCfgWord (Finset.range 512) := by
    intro m hm n hn h
    have hnat := congrArg BitVec.toNat h
    rw [toNat_encCfgWord (Finset.mem_range.1 hm), toNat_encCfgWord (Finset.mem_range.1 hn)] at hnat
    omega
  rw [encCfgWords, Finset.card_image_of_injOn hinj, Finset.card_range]

/-- ENC_CFG's words are those with OP = 5 and V_RSV = 0 (rules R61, R63). -/
theorem mem_encCfgWords_iff (cmd : Word16) : cmd ∈ encCfgWords ↔ opField cmd = 5#4 ∧ reservedField cmd = 0#3 := by
  have hop : opField cmd = 5#4 ↔ cmd.toNat % 16 = 5 := by
    rw [← BitVec.toNat_inj, opField, BitVec.extractLsb'_toNat]
    simp
  have hrsv : reservedField cmd = 0#3 ↔ cmd.toNat < 8192 := by
    rw [← BitVec.toNat_inj, reservedField, BitVec.extractLsb'_toNat, Nat.shiftRight_eq_div_pow]
    have := cmd.isLt
    simp
    omega
  rw [hop, hrsv, encCfgWords, Finset.mem_image]
  constructor
  · rintro ⟨n, hn, rfl⟩
    rw [Finset.mem_range] at hn
    rw [toNat_encCfgWord hn]
    omega
  · rintro ⟨h5, hlt⟩
    refine ⟨cmd.toNat / 16, Finset.mem_range.2 (by omega), BitVec.eq_of_toNat_eq ?_⟩
    rw [toNat_encCfgWord (by omega)]
    omega

/-- A word decodes as an ENC_CFG exactly where it is one of ENC_CFG's words. -/
theorem mem_encCfgWords_iff_decode (cmd : Word16) :
    cmd ∈ encCfgWords ↔ ∃ uSd uMode uPol uFq v, decode cmd = .ok (.encCfg uSd uMode uPol uFq v) := by
  rw [mem_encCfgWords_iff]
  constructor
  · rintro ⟨hop, hrsv⟩
    have hdec : decode cmd = decodeEncCfg cmd := by simp [decode, hop]
    exact ⟨_, _, _, _, _, hdec.trans (decodeEncCfg_eq_ok_iff.2 ⟨hrsv, rfl⟩)⟩
  · rintro ⟨uSd, uMode, uPol, uFq, v, hdec⟩
    exact fields_of_encCfgRow ((and_mask_eq_iff cmd (.encCfg uSd uMode uPol uFq v)).2 ⟨_, hdec, rfl⟩)

/-- A word decodes as an operation without fields exactly where it is one of their words. -/
theorem mem_plainWords_iff_decode (cmd : Word16) : cmd ∈ plainWords ↔ ∃ i ∈ plainInstrs, decode cmd = .ok i := by
  rw [plainWords, List.mem_toFinset, List.mem_map]
  refine exists_congr fun i => and_congr_right fun hi => ?_
  rw [decode_eq_ok_iff_of_plain hi, eq_comm]

/-- No word is of ENC_CFG and of another operation. -/
theorem disjoint_encCfgWords_plainWords : Disjoint encCfgWords plainWords := by
  rw [Finset.disjoint_left]
  intro cmd hcfg hplain
  obtain ⟨uSd, uMode, uPol, uFq, v, hdec⟩ := (mem_encCfgWords_iff_decode cmd).1 hcfg
  obtain ⟨i, hi, hdec'⟩ := (mem_plainWords_iff_decode cmd).1 hplain
  obtain rfl : .encCfg uSd uMode uPol uFq v = i := Except.ok.inj (hdec.symm.trans hdec')
  simp [plainInstrs] at hi

/-- The illegal words are those of no operation (rule R67). -/
theorem mem_compl_legalWords_iff (cmd : Word16) : cmd ∈ (encCfgWords ∪ plainWords)ᶜ ↔ IllegalWord cmd := by
  rw [Finset.mem_compl, not_iff_comm, not_illegalWord_iff, Finset.mem_union, mem_encCfgWords_iff_decode,
    mem_plainWords_iff_decode]
  constructor
  · rintro ⟨i, hdec⟩
    obtain hi | ⟨uSd, uMode, uPol, uFq, v, rfl⟩ := i.plain_or_encCfg
    · exact .inr ⟨i, hi, hdec⟩
    · exact .inl ⟨uSd, uMode, uPol, uFq, v, hdec⟩
  · rintro (⟨uSd, uMode, uPol, uFq, v, hdec⟩ | ⟨i, -, hdec⟩)
    · exact ⟨_, hdec⟩
    · exact ⟨i, hdec⟩

/-- The illegal words number 65536 - 517 (rule R67). -/
theorem card_compl_legalWords : (encCfgWords ∪ plainWords)ᶜ.card = 65019 := by
  have hplain : plainWords.card = 5 := by decide
  have hall : Fintype.card Word16 = 65536 := (Fintype.card_congr BitVec.equivFin.toEquiv).trans (Fintype.card_fin _)
  rw [Finset.card_compl, Finset.card_union_of_disjoint disjoint_encCfgWords_plainWords, card_encCfgWords, hplain, hall]

/-- The elements of a finite set of words, listed once each. -/
theorem exists_nodup_list (S : Finset Word16) {n : Nat} {P : Word16 → Prop} (hcard : S.card = n)
    (hmem : ∀ cmd, cmd ∈ S ↔ P cmd) : ∃ l : List Word16, l.Nodup ∧ l.length = n ∧ ∀ cmd, cmd ∈ l ↔ P cmd :=
  ⟨S.toList, S.nodup_toList, S.length_toList.trans hcard, fun cmd => Finset.mem_toList.trans (hmem cmd)⟩

/-- Settles O8: the illegal words are those the decoder rejects, and their number is that of the words of no
operation. -/
theorem illegalWordsAreAnsweredIllegalCommand : Obligations.IllegalWordsAreAnsweredIllegalCommand := by
  refine ⟨fun cmd => (decode_eq_error_iff cmd).symm, ?answer,
    exists_nodup_list _ card_compl_legalWords mem_compl_legalWords_iff,
    exists_nodup_list _ card_encCfgWords mem_encCfgWords_iff_decode, ?one⟩
  case answer =>
    intro s q rest hreq hill
    obtain ⟨e, hdec⟩ := (decode_eq_error_iff q.cmd).2 hill
    rw [step_cons hreq, respond_of_decode_error hdec, Response.raise]
  case one =>
    intro i hi
    exact ⟨encode i, (decode_eq_ok_iff_of_plain hi _).2 rfl, fun cmd => (decode_eq_ok_iff_of_plain hi cmd).1⟩

end Sys2Proof.Machine
end

section
/-! PROOFS. Steps and runs: what a step keeps, what a run answers, and what cannot change a response. -/

namespace Sys2Proof.Machine

/-- Every step gives a next state (rule R150). -/
theorem step_next (s : State) : step s = .next (s.serve respond) := step_eq_answer s

/-- A run goes on from where its first step leads. -/
theorem stepN_succ {s t : State} (h : step s = .next t) (k : Nat) : stepN (k + 1) s = stepN k t := by
  rw [stepN, h]

/-- Only the last response stays on the ports. -/
theorem deliver_deliver (s : State) (rest rest' : List Request) (r r' : Response) :
    (s.deliver rest r).deliver rest' r' = s.deliver rest' r' := rfl

/-- Settles O12, by induction on the number of requests answered before. -/
theorem requestsAreAnsweredInOrder : Obligations.RequestsAreAnsweredInOrder := by
  intro s k
  induction k generalizing s with
  | zero =>
    intro h
    obtain ⟨q, rest, hreq⟩ := List.exists_cons_of_length_pos h
    rw [stepN_succ (step_cons hreq), stepN]
    simp [hreq]
  | succ k ih =>
    intro h
    obtain ⟨q, rest, hreq⟩ := List.exists_cons_of_length_pos (Nat.zero_lt_of_lt h)
    have hk : k < (s.deliver rest (respond s.params q)).requests.length := by simpa [hreq] using h
    rw [stepN_succ (step_cons hreq), ih _ hk, deliver_deliver]
    simp [hreq]

/-- Settles O13, by induction on the number of steps: each serves one request and keeps the parameters. -/
theorem runsNeverStopNorChangeParameters : Obligations.RunsNeverStopNorChangeParameters := by
  intro k
  induction k with
  | zero => exact fun s => ⟨s, rfl, rfl, by simp⟩
  | succ k ih =>
    intro s
    obtain ⟨t, hrun, hparams, hreq⟩ := ih (s.serve respond)
    refine ⟨t, (stepN_succ (step_next s) k).trans hrun, by simpa using hparams, ?_⟩
    rw [hreq, serve_requests, ← List.drop_one, List.drop_drop, Nat.add_comm]

/-! ### The invariant -/

/-- UNSUPPORTED_OPERATION answers a request only without CLEAR_ALERT (rules R104, R120). -/
theorem hasAlert_of_respond_unsupported {p : Params} {q : Request}
    (h : (respond p q).status = .unsupportedOperation) : p.hasAlert = false := by
  cases hdec : decode q.cmd with
  | error e => simp [respond_of_decode_error hdec] at h
  | ok i =>
    rw [respond_of_decode hdec] at h
    obtain ⟨-, hunsupported, -⟩ := respondTo_status i p q
    obtain ⟨-, hprofile⟩ := hunsupported.1 h
    rwa [Ne, ← p.hasAlert_iff, Bool.not_eq_true] at hprofile

/-- Every response the block computes is coherent with its parameters. -/
theorem respond_coherent (p : Params) (q : Request) : (respond p q).Coherent p := by
  refine ⟨fun herr => ?_, hasAlert_of_respond_unsupported⟩
  obtain ⟨w, hdone⟩ | ⟨st, hraise⟩ := respond_done_or_raise p q
  · exact absurd (congrArg Response.status hdone) herr
  · rw [hraise, raise_result]

/-- Settles O14: a step keeps the parameters, and what it puts on the ports is a response it computed. -/
theorem stepKeepsSoundness : Obligations.StepKeepsSoundness := by
  rintro s t ⟨hwf, -⟩ hstep
  obtain rfl : s.serve respond = t := by simpa [step_next] using hstep
  refine ⟨by rwa [serve_params], fun r hr => ?_⟩
  obtain ⟨q, -, rfl⟩ := serve_response hr
  rw [serve_params]
  exact respond_coherent s.params q

/-- Settles O15: after reset no response stands, and BASE's default FB is admissible. -/
theorem resetIsSound : Obligations.ResetIsSound := by
  have hreset (p : Params) (hwf : p.WF) : (State.resetWith p).Sound := ⟨hwf, by simp⟩
  exact ⟨hreset, hreset _ (by decide)⟩

/-! ### One step -/

/-- Settles O9: step and exec both deliver the decoded operation's response. -/
theorem stepRunsTheDecodedInstruction : Obligations.StepRunsTheDecodedInstruction := by
  intro s q rest i hreq hdec
  rw [step_cons hreq, respond_of_decode hdec, exec_cons hreq]

/-- Settles O10: with no request, serving is the idle block. -/
theorem idleStepDeliversNothing : Obligations.IdleStepDeliversNothing := by
  intro s hreq
  rw [step_next, serve_nil hreq, State.idle]

/-- Settles O11: the step delivers `respond`, which takes the parameters and the request alone. -/
theorem responseDependsOnParametersAndRequestOnly : Obligations.ResponseDependsOnParametersAndRequestOnly := by
  intro s t q rs rt hparams hs ht
  exact ⟨respond s.params q, step_cons hs, by rw [step_cons ht, hparams]⟩

/-- Settles O41: the host's request is answered by one step of the block with that request alone. -/
theorem hostRequestIsOneStep : Obligations.HostRequestIsOneStep := by
  intro y q
  have hstep := step_cons (s := { y.block with requests := [q] }) rfl
  exact ⟨hstep, rfl, rfl, rfl⟩

/-! ### The bits an operation reads, and its frame -/

/-- What an operation does depends on a request through its response alone, and not on the response that stood
before. -/
theorem exec_congr {i : Instr} {p : Params} {q q' : Request} (h : respondTo i p q = respondTo i p q')
    (rest : List Request) (r r' : Option Response) : exec i ⟨p, q :: rest, r⟩ = exec i ⟨p, q' :: rest, r'⟩ := by
  rw [exec_cons rfl, exec_cons rfl, h]
  rfl

/-- DEC_TEMP does not read the padding (rule R84). -/
theorem decN_congr {p : Params} {x y : Word16} (h : x >>> p.shift = y >>> p.shift) : decN p x = decN p y := by
  have hnat := congrArg BitVec.toNat h
  rw [BitVec.toNat_ushiftRight, BitVec.toNat_ushiftRight] at hnat
  rw [decN, decN, hnat]

/-- The operations on a Config value read A[7:0] alone (rule R65). -/
theorem respondTo_congr_cfg {i : Instr} {q q' : Request} (hi : i ∉ [Instr.decTemp, .encTemp, .encPair])
    (h : q.cfg = q'.cfg) (p : Params) : respondTo i p q = respondTo i p q' := by
  cases i with
  | decTemp | encTemp | encPair => simp at hi
  | decCfg => rw [respondTo, respondTo, decCfgResponse, decCfgResponse, h]
  | encCfg => rw [respondTo, respondTo, encCfgResponse, encCfgResponse, h]
  | chkAlert => rw [respondTo, respondTo, chkAlertResponse, chkAlertResponse, h]

/-- Settles O18: per operation, its response from the bits it reads. -/
theorem unreadOperandBitsAreIgnored : Obligations.UnreadOperandBitsAreIgnored := by
  intro p q q' rest r r'
  refine ⟨fun hraw => exec_congr ?decTemp rest r r', fun ha => exec_congr ?encTemp rest r r',
    fun ha hb => exec_congr ?encPair rest r r', fun hcfg => ?cfg⟩
  case decTemp => rw [respondTo, respondTo, decTempResponse, decTempResponse, Request.raw, Request.raw, decN_congr hraw]
  case encTemp => rw [respondTo, respondTo, encTempResponse_eq, encTempResponse_eq, ha]
  case encPair => rw [respondTo, respondTo, encPairResponse_eq, encPairResponse_eq, ha, hb]
  case cfg =>
    have key {i : Instr} (hi : i ∉ [Instr.decTemp, .encTemp, .encPair]) :=
      exec_congr (respondTo_congr_cfg hi hcfg p) rest r r'
    exact ⟨key (by simp), fun _ _ _ _ _ => key (by simp), key (by simp)⟩

/-- A response stands after serving exactly where there was a request. -/
theorem isSome_serve_response (s : State) (f : Params → Request → Response) :
    (s.serve f).response.isSome ↔ s.requests ≠ [] := by
  cases hreq : s.requests with
  | nil => simp [serve_nil hreq]
  | cons q rest => simp [serve_cons hreq]

/-- Settles O19: every operation serves the request in progress, and serving changes the interface alone. -/
theorem operationsChangeOnlyTheInterface : Obligations.OperationsChangeOnlyTheInterface := by
  intro i s t hexec
  obtain rfl : s.serve (respondTo i) = t := by simpa [exec_eq_answer, State.answer] using hexec
  exact ⟨serve_params s _, serve_requests s _, isSome_serve_response s _⟩

end Sys2Proof.Machine
end

section
/-! PROOFS. Rounding half away from zero: nearest, ties to the larger magnitude, odd, monotone, exact on integers. -/

namespace Sys2Proof.Machine

/-- Rounding a value that is not negative adds a half and drops the fraction (rule R11). -/
theorem roundHalfAwayQ_of_nonneg {q : ℚ} (h : 0 ≤ q) : roundHalfAwayQ q = ⌊q + 1 / 2⌋ := by
  rw [roundHalfAwayQ, abs_of_nonneg h]
  obtain rfl | hpos := h.eq_or_lt
  · norm_num
  · simp [sign_pos hpos]

/-- Rounding is odd (rule R11). -/
theorem roundHalfAwayQ_neg (q : ℚ) : roundHalfAwayQ (-q) = -roundHalfAwayQ q := by
  simp [roundHalfAwayQ, Left.sign_neg]

/-- What holds of every value that is not negative, and of -q where it holds of q, holds of every value. -/
theorem rat_induction_neg {P : ℚ → Prop} (hnonneg : ∀ q, 0 ≤ q → P q) (hneg : ∀ q, P q → P (-q)) (q : ℚ) : P q := by
  obtain h | h := le_total 0 q
  · exact hnonneg q h
  · exact neg_neg q ▸ hneg _ (hnonneg _ (neg_nonneg.2 h))

/-- Rounding is to a nearest integer (rule R82). -/
theorem abs_roundHalfAwayQ_sub_le (q : ℚ) : |(roundHalfAwayQ q : ℚ) - q| ≤ 1 / 2 := by
  induction q using rat_induction_neg with
  | hnonneg q h =>
    have hle := Int.floor_le (q + 1 / 2)
    have hlt := Int.lt_floor_add_one (q + 1 / 2)
    rw [roundHalfAwayQ_of_nonneg h, abs_le]
    constructor <;> linarith
  | hneg q ih =>
    rw [roundHalfAwayQ_neg, Int.cast_neg, neg_sub_neg, abs_sub_comm]
    exact ih

/-- A tie goes to the larger magnitude (rule R82). -/
theorem abs_lt_abs_roundHalfAwayQ (q : ℚ) (htie : |(roundHalfAwayQ q : ℚ) - q| = 1 / 2) :
    |q| < |(roundHalfAwayQ q : ℚ)| := by
  induction q using rat_induction_neg with
  | hnonneg q h =>
    have hlt := Int.lt_floor_add_one (q + 1 / 2)
    rw [roundHalfAwayQ_of_nonneg h] at htie ⊢
    have hup : (⌊q + 1 / 2⌋ : ℚ) = q + 1 / 2 := by
      obtain hpos | hneg := abs_eq (by norm_num) |>.1 htie <;> linarith
    rw [hup, abs_of_nonneg h, abs_of_nonneg (by linarith)]
    linarith
  | hneg q ih =>
    rw [roundHalfAwayQ_neg, Int.cast_neg, neg_sub_neg, abs_sub_comm] at htie
    rw [roundHalfAwayQ_neg, Int.cast_neg, abs_neg, abs_neg]
    exact ih htie

/-- Settles O24: the integer rounding is the rational one, which is to nearest with ties to the larger magnitude. -/
theorem roundingIsNearestTiesAway : Obligations.RoundingIsNearestTiesAway := by
  intro num den hden
  rw [← roundHalfAwayQ_div num hden]
  exact ⟨abs_roundHalfAwayQ_sub_le _, abs_lt_abs_roundHalfAwayQ _⟩

theorem roundHalfAwayQ_nonneg {q : ℚ} (h : 0 ≤ q) : 0 ≤ roundHalfAwayQ q := by
  rw [roundHalfAwayQ_of_nonneg h]
  exact Int.floor_nonneg.2 (by linarith)

/-- Rounding keeps the order of values. -/
theorem roundHalfAwayQ_mono : Monotone roundHalfAwayQ := by
  have hmono {q r : ℚ} (hq : 0 ≤ q) (hqr : q ≤ r) : roundHalfAwayQ q ≤ roundHalfAwayQ r := by
    rw [roundHalfAwayQ_of_nonneg hq, roundHalfAwayQ_of_nonneg (hq.trans hqr)]
    exact Int.floor_mono (by linarith)
  intro q r hqr
  obtain hq | hq := le_total 0 q
  · exact hmono hq hqr
  · have hneg {x : ℚ} (hx : x ≤ 0) : roundHalfAwayQ x = -roundHalfAwayQ (-x) := by rw [← roundHalfAwayQ_neg, neg_neg]
    have hq' := roundHalfAwayQ_nonneg (neg_nonneg.2 hq)
    obtain hr | hr := le_total 0 r
    · have hr' := roundHalfAwayQ_nonneg hr
      rw [hneg hq]
      omega
    · rw [hneg hq, hneg hr]
      exact neg_le_neg (hmono (neg_nonneg.2 hr) (neg_le_neg hqr))

/-- Rounding an integer and a half goes away from zero, to the next integer (rule R82). -/
theorem roundHalfAwayQ_add_half {n : ℤ} (h : 0 ≤ n) : roundHalfAwayQ (n + 1 / 2) = n + 1 := by
  have hcast : (0 : ℚ) ≤ n := by exact_mod_cast h
  have hsum : (n : ℚ) + 1 / 2 + 1 / 2 = ((n + 1 : ℤ) : ℚ) := by push_cast; ring
  rw [roundHalfAwayQ_of_nonneg (by linarith), hsum, Int.floor_intCast]

/-- Rounding leaves an integer as it is. -/
theorem roundHalfAwayQ_intCast (n : ℤ) : roundHalfAwayQ n = n := by
  have h := abs_roundHalfAwayQ_sub_le (n : ℚ)
  have hlt : |(roundHalfAwayQ n : ℚ) - n| < 1 := h.trans_lt (by norm_num)
  have hzero : roundHalfAwayQ n - n = 0 := Int.abs_lt_one_iff.1 (by exact_mod_cast hlt)
  exact sub_eq_zero.1 hzero

end Sys2Proof.Machine
end

section
/-! PROOFS. The laws of the temperature codec (rules R80, R88), from the integer N that an encoding holds. -/

namespace Sys2Proof.Machine

/-! ### The requests of the laws -/

/-- The command word of an operation without fields is answered by that operation. -/
theorem respond_of_plain {i : Instr} {q : Request} (hi : i ∈ plainInstrs) (hq : q.cmd = encode i) (p : Params) :
    respond p q = respondTo i p q :=
  respond_of_decode ((decode_eq_ok_iff_of_plain hi _).2 hq) p

/-- The raw value of a finite operand is ENC_T of its value (rules R66, R86). -/
theorem encodedRaw_eq {a : Word32} (h : isFinite32 a = true) (p : Params) : encodedRaw p a = encTQ p (val32 a) := by
  have hresp : respond p ⟨0x0002, a, 0⟩ = ⟨(encTQ p (val32 a)).setWidth 32, .ok⟩ := by
    rw [respond_of_plain (i := .encTemp) (by decide) (q := ⟨0x0002, a, 0⟩) rfl, respondTo,
      encTempResponse_of_finite (q := ⟨0x0002, a, 0⟩) h]
  rw [encodedRaw, hresp, BitVec.extractLsb'_setWidth_of_le (by decide), BitVec.extractLsb'_eq_self]

/-- The pattern of a raw value is that of the N it holds (rules R84, R85). -/
theorem decodedPattern_eq (p : Params) (raw : Word16) :
    decodedPattern p raw = f32OfFixed (decN p raw) p.fracBits := by
  have hraw : Request.raw ⟨0x0001, raw.setWidth 32, 0⟩ = raw := by
    rw [Request.raw, BitVec.extractLsb'_setWidth_of_le (by decide), BitVec.extractLsb'_eq_self]
  rw [decodedPattern, respond_of_plain (i := .decTemp) (q := ⟨0x0001, raw.setWidth 32, 0⟩) (by decide) rfl, respondTo,
    decTempResponse, hraw, done_result]

/-- The value of a decoded raw value is its N in steps (rules R84, R85). -/
theorem val32_decodedPattern {p : Params} (h : p.WF) (raw : Word16) :
    val32 (decodedPattern p raw) = decN p raw * stepQ p := by
  have hfb : p.fracBits ≤ 126 := (fracBits_le_of_wf h).trans (by decide)
  rw [decodedPattern_eq, val32_f32OfFixed (natAbs_decN_lt p raw) hfb, stepQ]

/-- A decoded raw value is finite (rule R89). -/
theorem isFinite32_decodedPattern {p : Params} (h : p.WF) (raw : Word16) :
    isFinite32 (decodedPattern p raw) = true := by
  have hfb : p.fracBits ≤ 126 := (fracBits_le_of_wf h).trans (by decide)
  obtain ⟨hnan, hinf⟩ := not_nan_not_inf_of_exp_lt (f32Exp_f32OfFixed_lt (natAbs_decN_lt p raw) hfb)
  rw [decodedPattern_eq, isFinite32_iff, hnan, hinf]
  decide

/-! ### The integer an encoding holds -/

/-- An encoding is its N, packed (rules R80, R81). -/
theorem encTQ_eq_packN (p : Params) (x : ℚ) : encTQ p x = packN p (encNQ p x) :=
  (packN_eq_ofInt p _).symm

theorem nMin_le_encNQ (p : Params) (x : ℚ) : p.nMin ≤ encNQ p x := le_max_left _ _

theorem encNQ_le_nMax (p : Params) (x : ℚ) : encNQ p x ≤ p.nMax := max_le (nMin_le_nMax p) (min_le_left _ _)

/-- Where the rounded value is in range the clamp does nothing (rule R81). -/
theorem encNQ_of_mem {p : Params} {x : ℚ} (h1 : p.nMin ≤ roundHalfAwayQ (x * 2 ^ p.fracBits))
    (h2 : roundHalfAwayQ (x * 2 ^ p.fracBits) ≤ p.nMax) : encNQ p x = roundHalfAwayQ (x * 2 ^ p.fracBits) := by
  rw [encNQ, min_eq_right h2, max_eq_right h1]

/-- Scaling by 2^FB and rounding keep the order of values. -/
theorem roundHalfAwayQ_scaled_mono (p : Params) {x y : ℚ} (h : x ≤ y) :
    roundHalfAwayQ (x * 2 ^ p.fracBits) ≤ roundHalfAwayQ (y * 2 ^ p.fracBits) :=
  roundHalfAwayQ_mono (mul_le_mul_of_nonneg_right h (by positivity))

/-- N does not fall as the value grows. -/
theorem encNQ_mono (p : Params) : Monotone (encNQ p) := fun _ _ hxy =>
  max_le_max_left _ (min_le_min_left _ (roundHalfAwayQ_scaled_mono p hxy))

/-- Decoding gives the N of an encoding back. -/
theorem decN_encTQ (p : Params) (x : ℚ) : decN p (encTQ p x) = encNQ p x := by
  rw [encTQ_eq_packN, decN_packN (nMin_le_encNQ p x) (encNQ_le_nMax p x)]

/-- A multiple of the step, scaled by 2^FB, is that multiple (rule R15). -/
theorem mul_stepQ_mul_two_pow (p : Params) (x : ℚ) : x * stepQ p * 2 ^ p.fracBits = x := by
  rw [stepQ]
  field_simp

/-- N of a grid value in range is its multiple of the step. -/
theorem encNQ_grid {p : Params} {n : ℤ} (h1 : p.nMin ≤ n) (h2 : n ≤ p.nMax) : encNQ p (n * stepQ p) = n := by
  have hround : roundHalfAwayQ (n * stepQ p * 2 ^ p.fracBits) = n := by
    rw [mul_stepQ_mul_two_pow, roundHalfAwayQ_intCast]
  rw [encNQ_of_mem] <;> rw [hround] <;> assumption

/-- Left justification: an N in range times 2^SH is a 16-bit signed value (rules R15, R80). -/
theorem sext16_packN {p : Params} {n : ℤ} (h1 : p.nMin ≤ n) (h2 : n ≤ p.nMax) :
    sext16 (packN p n) = n * 2 ^ p.shift := by
  rw [sext16, packN_eq_ofInt]
  apply BitVec.toInt_ofInt_eq_self (by decide)
  all_goals
    obtain ⟨pr, fb⟩ := p
    cases pr <;> simp only [Params.nMin, Params.nMax, Params.shift, Params.tempBits, Profile.tempBits] at * <;> omega

/-- An encoding as a signed word is its N times 2^SH (rule R80). -/
theorem sext16_encTQ (p : Params) (x : ℚ) : sext16 (encTQ p x) = encNQ p x * 2 ^ p.shift := by
  rw [encTQ_eq_packN, sext16_packN (nMin_le_encNQ p x) (encNQ_le_nMax p x)]

/-- The encoding, as a signed word, does not fall as the value grows. -/
theorem sext16_encTQ_mono (p : Params) {x y : ℚ} (hxy : x ≤ y) : sext16 (encTQ p x) ≤ sext16 (encTQ p y) := by
  rw [sext16_encTQ, sext16_encTQ]
  exact mul_le_mul_of_nonneg_right (encNQ_mono p hxy) (by positivity)

/-! ### The format law -/

/-- A packed N stands in the top TB bits, with the padding below zero (rule R80). -/
theorem packN_fields (p : Params) (n : ℤ) : (packN p n).toNat >>> p.shift = (n % 2 ^ p.tempBits).toNat ∧
    (packN p n).toNat % 2 ^ p.shift = 0 := by
  obtain ⟨pr, fb⟩ := p
  cases pr <;>
    simp only [packN, trunc, Params.tempBits, Params.shift, Profile.tempBits, BitVec.toNat_ofNat,
      Nat.shiftRight_eq_div_pow, Nat.shiftLeft_eq] <;> omega

/-- At the default FB, 2^SH is 256 steps (rules R7, R15). -/
theorem two_pow_shift_default {p : Params} (h : p.fracBits = p.profile.defaultFracBits) :
    (2 : ℚ) ^ p.shift = 256 * stepQ p := by
  obtain ⟨pr, fb⟩ := p
  obtain rfl : fb = pr.defaultFracBits := h
  cases pr <;> norm_num [Params.shift, stepQ, Params.tempBits, Profile.tempBits, Profile.defaultFracBits]

/-- Settles O23: the integer is N of the operand's value. -/
theorem encodedValuesAreLeftJustified : Obligations.EncodedValuesAreLeftJustified := by
  intro p a hwf hfin
  obtain ⟨hfield, hpad⟩ := packN_fields p (encNQ p (val32 a))
  rw [← encTQ_eq_packN] at hfield hpad
  rw [encodedRaw_eq hfin]
  refine ⟨encNQ p (val32 a), nMin_le_encNQ p _, encNQ_le_nMax p _, hfield, hpad, ?decoded, fun hfb => ?units⟩
  case decoded => rw [val32_decodedPattern hwf, decN_encTQ]
  case units =>
    rw [sext16_encTQ, Int.cast_mul, Int.cast_pow, Int.cast_ofNat, two_pow_shift_default hfb]
    ring

/-! ### The laws (a) to (g) -/

/-- Settles O26: the encoding holds N = n. -/
theorem gridValuesRoundTrip : Obligations.GridValuesRoundTrip := by
  intro p a n hwf hfin h1 h2 hgrid
  rw [encodedRaw_eq hfin, val32_decodedPattern hwf, decN_encTQ, hgrid, encNQ_grid h1 h2]

/-- In range, N is the rounded value, so it is within a half of the scaled value (rule R82). -/
theorem abs_encNQ_sub_le {p : Params} {x : ℚ} (h1 : p.nMin * stepQ p ≤ x) (h2 : x ≤ p.nMax * stepQ p) :
    |(encNQ p x : ℚ) - x * 2 ^ p.fracBits| ≤ 1 / 2 := by
  have hlo := roundHalfAwayQ_scaled_mono p h1
  have hhi := roundHalfAwayQ_scaled_mono p h2
  rw [mul_stepQ_mul_two_pow, roundHalfAwayQ_intCast] at hlo hhi
  rw [encNQ_of_mem hlo hhi]
  exact abs_roundHalfAwayQ_sub_le _

/-- Settles O27: the error in units of the step is that of the rounding. -/
theorem quantisationErrorIsAtMostHalfAStep : Obligations.QuantisationErrorIsAtMostHalfAStep := by
  intro p a hwf hfin h1 h2
  have hstep : 0 < stepQ p := by unfold stepQ; positivity
  have herr : (encNQ p (val32 a) : ℚ) * stepQ p - val32 a =
      (encNQ p (val32 a) - val32 a * 2 ^ p.fracBits) * stepQ p := by
    rw [sub_mul, mul_right_comm, mul_stepQ_mul_two_pow]
  rw [encodedRaw_eq hfin, val32_decodedPattern hwf, decN_encTQ, herr, abs_mul, abs_of_pos hstep]
  calc _ ≤ 1 / 2 * stepQ p := mul_le_mul_of_nonneg_right (abs_encNQ_sub_le h1 h2) hstep.le
    _ = stepQ p / 2 := by ring

theorem nMax_nonneg (p : Params) : 0 ≤ p.nMax := by
  have hpow : (0 : ℤ) < 2 ^ (p.tempBits - 1) := by positivity
  rw [Params.nMax]
  omega

/-- The range of N has one more value below zero than above (rule R15). -/
theorem nMin_eq (p : Params) : p.nMin = -(p.nMax + 1) := by
  rw [Params.nMin, Params.nMax, sub_add_cancel]

/-- Settles O28: half a step beyond an end, the scaled value rounds past that end's N. -/
theorem outOfRangeValuesSaturate : Obligations.OutOfRangeValuesSaturate := by
  intro p a hfin
  rw [encodedRaw_eq hfin]
  refine ⟨fun habove => encTQ_eq_rawMax ?above, fun hbelow => ⟨encTQ_eq_rawMin ?below, rawMin_eq p⟩⟩
  case above =>
    have hround := roundHalfAwayQ_scaled_mono p habove
    rw [mul_stepQ_mul_two_pow, roundHalfAwayQ_add_half (nMax_nonneg p)] at hround
    omega
  case below =>
    have hround := roundHalfAwayQ_scaled_mono p hbelow
    have hneg : (p.nMin : ℚ) - 1 / 2 = -((p.nMax + 1 : ℤ) + 1 / 2) := by rw [nMin_eq]; push_cast; ring
    have hpos : 0 ≤ p.nMax + 1 := by have := nMax_nonneg p; omega
    rw [mul_stepQ_mul_two_pow, hneg, roundHalfAwayQ_neg, roundHalfAwayQ_add_half hpos] at hround
    rw [nMin_eq]
    omega

/-- Settles O29: the encodings compare as their N. -/
theorem encodingIsMonotone : Obligations.EncodingIsMonotone := by
  intro p a b ha hb hab
  rw [encodedRaw_eq ha, encodedRaw_eq hb]
  exact sext16_encTQ_mono p hab

/-- Settles O30: a decoded value is on the grid, so encoding packs the N that was unpacked. -/
theorem encodeAfterDecodeMasksThePadding : Obligations.EncodeAfterDecodeMasksThePadding := by
  intro p raw hwf
  obtain ⟨h1, h2⟩ := decN_bounds p raw
  rw [encodedRaw_eq (isFinite32_decodedPattern hwf raw), val32_decodedPattern hwf, encTQ_eq_packN, encNQ_grid h1 h2,
    packN_decN]

/-- Flipping bit 31 flips the sign and keeps the other fields (rule R12). -/
theorem f32_fields_flip (b : Word32) : f32Sign (b ^^^ 0x80000000) = !f32Sign b ∧
    f32Exp (b ^^^ 0x80000000) = f32Exp b ∧ f32Frac (b ^^^ 0x80000000) = f32Frac b := by
  refine ⟨by simp [f32Sign], ?_, ?_⟩
  · rw [f32Exp, BitVec.extractLsb'_xor]
    simp [f32Exp]
  · rw [f32Frac, BitVec.extractLsb'_xor]
    simp [f32Frac]

theorem isFinite32_flip (b : Word32) : isFinite32 (b ^^^ 0x80000000) = isFinite32 b := by
  obtain ⟨-, hexp, hfrac⟩ := f32_fields_flip b
  rw [isFinite32, isNaN32, isInf32, hexp, hfrac]
  rfl

theorem val32_flip (b : Word32) : val32 (b ^^^ 0x80000000) = -val32 b := by
  obtain ⟨hsign, hexp, hfrac⟩ := f32_fields_flip b
  rw [val32, hsign, hexp, hfrac, val32, ← neg_mul]
  cases f32Sign b <;> simp

/-- N is odd where neither the value nor its negation saturates. -/
theorem encNQ_neg {p : Params} {x : ℚ} (h : |roundHalfAwayQ (x * 2 ^ p.fracBits)| ≤ p.nMax) :
    encNQ p (-x) = -encNQ p x := by
  have hround : roundHalfAwayQ (-x * 2 ^ p.fracBits) = -roundHalfAwayQ (x * 2 ^ p.fracBits) := by
    rw [neg_mul, roundHalfAwayQ_neg]
  have hmin := nMin_eq p
  rw [abs_le] at h
  rw [encNQ_of_mem (x := x) (by omega) (by omega), encNQ_of_mem (x := -x) (by omega) (by omega), hround]

/-- Settles O31: N is odd, and so is packing it. -/
theorem encodingIsOddAwayFromSaturation : Obligations.EncodingIsOddAwayFromSaturation := by
  intro p a hfin hround
  rw [encodedRaw_eq (by rwa [isFinite32_flip]), encodedRaw_eq hfin, val32_flip, encTQ, encNQ_neg hround, neg_mul,
    BitVec.ofInt_neg, encTQ]

/-- The response of ENC_PAIR to a request with its command word (rule R87). -/
theorem respond_encPair (p : Params) (a b : Word32) :
    respond p ⟨0x0003, a, b⟩ = encPairResponse p ⟨0x0003, a, b⟩ :=
  respond_of_plain (i := .encPair) (by decide) rfl p

/-- The response of ENC_PAIR to finite operands (rule R87). -/
theorem encPairResponse_of_finite {q : Request} (ha : isFinite32 q.a = true) (hb : isFinite32 q.b = true) (p : Params) :
    encPairResponse p q = ⟨encTQ p (max (val32 q.a) (val32 q.b)) ++ encTQ p (min (val32 q.a) (val32 q.b)), .ok⟩ := by
  rw [encPairResponse_eq, if_neg ((isFinite32_and_iff q.a q.b).1 (by rw [ha, hb]; rfl))]

/-- ENC_PAIR's response does not depend on the order of its operands (rule R88 (g)). -/
theorem encPairResponse_swap (p : Params) (cmd : Word16) (a b : Word32) :
    encPairResponse p ⟨cmd, a, b⟩ = encPairResponse p ⟨cmd, b, a⟩ := by
  rw [encPairResponse, encPairResponse, Bool.and_comm, max_comm, min_comm]
  rfl

/-- Settles O32: larger and smaller are symmetric in the operands, and the encoding is monotone. -/
theorem thresholdPairIsSymmetricAndOrdered : Obligations.ThresholdPairIsSymmetricAndOrdered := by
  intro p a b
  refine ⟨?symmetric, fun ha hb => ?ordered⟩
  case symmetric => rw [respond_encPair, respond_encPair, encPairResponse_swap]
  case ordered =>
    rw [respond_encPair, encPairResponse_of_finite (q := ⟨0x0003, a, b⟩) ha hb,
      BitVec.extractLsb'_append_eq_right, BitVec.extractLsb'_append_eq_left]
    exact sext16_encTQ_mono p min_le_max

end Sys2Proof.Machine
end

section
/-! PROOFS. Rounding to the nearest binary32 where it is exact, and the encoder's product computed in binary32. -/

namespace Sys2Proof.Machine

/-! ### The nearest pattern of a value with 24 significant bits -/

/-- A number of units that one finite pattern's exponent and significand can write, were the exponent unbounded:
k * 2^u with k below 2^24, and k normalised unless u is 0. -/
def IsSignificand (k u : ℕ) : Prop := k < 2 ^ 24 ∧ (u = 0 ∨ 2 ^ 23 ≤ k)

/-- Rounding an exact quotient to nearest even leaves it as it is. -/
theorem roundHalfEven_mul (n : ℕ) {d : ℕ} (hd : 0 < d) : roundHalfEven (n * d) d = n := by
  simp [roundHalfEven, Nat.mul_div_cancel _ hd, hd]

/-- The last place of a value with 24 significant bits is at its own exponent. -/
theorem log2_sub_of_isSignificand {k u : ℕ} (h : IsSignificand k u) : (k * 2 ^ u).log2 - 23 = u := by
  obtain ⟨hlt, rfl | hnorm⟩ := h
  · obtain rfl | hk := eq_or_ne k 0
    · rfl
    · have hlog : k.log2 < 24 := (Nat.log2_lt hk).2 hlt
      rw [pow_zero, mul_one]
      omega
  · have hne : k * 2 ^ u ≠ 0 := mul_ne_zero (by omega) (by positivity)
    have hlog : (k * 2 ^ u).log2 = 23 + u := by
      rw [Nat.log2_eq_iff hne, pow_add, add_right_comm, pow_add]
      exact ⟨Nat.mul_le_mul_right _ hnorm, Nat.mul_lt_mul_of_pos_right hlt (by positivity)⟩
    rw [hlog, Nat.add_sub_cancel_left]

/-- The nearest pattern of a value with 24 significant bits: exponent and significand as they are, or an infinity. -/
theorem f32Nearest_of_isSignificand (neg : Bool) {k u : ℕ} (h : IsSignificand k u) :
    f32Nearest neg (k * 2 ^ u) f32One =
      BitVec.ofNat 32 ((if neg then 2 ^ 31 else 0) + min 0x7F800000 (u * 2 ^ 23 + k)) := by
  have hone : 0 < f32One := by decide
  have hmul : k * 2 ^ u * f32One = k * (f32One * 2 ^ u) := by ring
  unfold f32Nearest
  simp only [Nat.mul_div_cancel _ hone, log2_sub_of_isSignificand h]
  rw [hmul, roundHalfEven_mul k (by positivity)]

/-- A pattern is its three fields (rule R12). -/
theorem f32_eq_fields (b : Word32) :
    b = BitVec.ofNat 32 ((if f32Sign b then 2 ^ 31 else 0) + (f32Exp b * 2 ^ 23 + f32Frac b)) := by
  have hb := b.isLt
  have hsign : f32Sign b = decide (2 ^ 31 ≤ b.toNat) := by
    rw [f32Sign, ← BitVec.testBit_toNat, Nat.testBit_eq_decide_div_mod_eq, decide_eq_decide]
    omega
  apply BitVec.eq_of_toNat_eq
  rw [hsign, f32Exp, f32Frac, BitVec.extractLsb'_toNat, BitVec.extractLsb'_toNat, Nat.shiftRight_eq_div_pow,
    BitVec.toNat_ofNat]
  simp only [decide_eq_true_eq]
  split <;> omega

theorem f32Frac_lt (b : Word32) : f32Frac b < 2 ^ 23 := (b.extractLsb' 0 23).isLt

theorem f32Exp_lt_of_finite {b : Word32} (h : isFinite32 b = true) : f32Exp b < 255 := by
  have hlt : f32Exp b < 2 ^ 8 := (b.extractLsb' 23 8).isLt
  have hne : f32Exp b ≠ 255 := by
    intro hexp
    by_cases hfrac : f32Frac b = 0 <;> simp [isFinite32, isNaN32, isInf32, hexp, hfrac] at h
  omega

/-- The magnitude of a pattern as a significand at an exponent; the two make up its fields. -/
theorem f32MagUnits_eq (b : Word32) : ∃ k u, IsSignificand k u ∧ f32MagUnits b = k * 2 ^ u ∧
    u * 2 ^ 23 + k = f32Exp b * 2 ^ 23 + f32Frac b := by
  have hfrac := f32Frac_lt b
  by_cases hexp : f32Exp b = 0
  · exact ⟨f32Frac b, 0, ⟨by omega, .inl rfl⟩, by simp [f32MagUnits, hexp], by simp [hexp]⟩
  · refine ⟨2 ^ 23 + f32Frac b, f32Exp b - 1, ⟨by omega, .inr (by omega)⟩, by simp [f32MagUnits, hexp], ?_⟩
    omega

/-- Settles O34: the fields of the nearest pattern are those of the pattern. -/
theorem nearestPatternOfAPatternIsItself : Obligations.NearestPatternOfAPatternIsItself := by
  intro a hfin
  obtain ⟨k, u, hsig, hmag, hfields⟩ := f32MagUnits_eq a
  have hexp := f32Exp_lt_of_finite hfin
  have hfrac := f32Frac_lt a
  have hmin : min 0x7F800000 (u * 2 ^ 23 + k) = f32Exp a * 2 ^ 23 + f32Frac a := by omega
  rw [hmag, f32Nearest_of_isSignificand _ hsig, hmin, ← f32_eq_fields]

/-! ### The product in binary32 -/

/-- Scaling by a power of 2 keeps 24 significant bits: the significand moves up while it is not normalised. -/
theorem exists_isSignificand_mul_two_pow {k : ℕ} (hk : k < 2 ^ 24) (e : ℕ) :
    ∃ k' u, IsSignificand k' u ∧ k * 2 ^ e = k' * 2 ^ u := by
  induction e generalizing k with
  | zero => exact ⟨k, 0, ⟨hk, .inl rfl⟩, rfl⟩
  | succ e ih =>
    by_cases hnorm : 2 ^ 23 ≤ k
    · exact ⟨k, e + 1, ⟨hk, .inr hnorm⟩, rfl⟩
    · obtain ⟨k', u, hsig, heq⟩ := ih (k := k * 2) (by omega)
      exact ⟨k', u, hsig, by rw [← heq]; ring⟩

/-- A pattern whose fields are those of a significand at an exponent has that magnitude. -/
theorem f32MagUnits_of_fields {b : Word32} {k u : ℕ} (h : IsSignificand k u)
    (hb : f32Exp b * 2 ^ 23 + f32Frac b = u * 2 ^ 23 + k) : f32MagUnits b = k * 2 ^ u := by
  obtain ⟨k', u', ⟨hlt', hnorm'⟩, hmag, hfields⟩ := f32MagUnits_eq b
  obtain ⟨hlt, hnorm⟩ := h
  obtain ⟨rfl, rfl⟩ : k' = k ∧ u' = u := by omega
  exact hmag

/-- The nearest pattern of a value with 24 significant bits is exact, or an infinity from 2^277 units on. -/
theorem f32Nearest_cases (neg : Bool) {k u : ℕ} (h : IsSignificand k u) :
    let b := f32Nearest neg (k * 2 ^ u) f32One
    f32Sign b = neg ∧ ((isInf32 b = false ∧ f32MagUnits b = k * 2 ^ u) ∨ (isInf32 b = true ∧ 2 ^ 277 ≤ k * 2 ^ u)) := by
  intro b
  have hb : b = _ := f32Nearest_of_isSignificand neg h
  obtain ⟨hlt, hu⟩ := h
  obtain hbig | hsmall := Nat.lt_or_ge 253 u
  · have hmin : min 0x7F800000 (u * 2 ^ 23 + k) = 255 * 2 ^ 23 + 0 := by omega
    obtain ⟨hs, he, hf⟩ := f32_fields (neg := neg) (e := 255) (f := 0) (by decide) (by decide)
    rw [← hmin, ← hb] at hs he hf
    refine ⟨hs, .inr ⟨by simp [isInf32, he, hf], ?_⟩⟩
    calc 2 ^ 277 = 2 ^ 23 * 2 ^ 254 := by rw [← pow_add]
      _ ≤ k * 2 ^ u := Nat.mul_le_mul (by omega) (Nat.pow_le_pow_right (by decide) hbig)
  · have hmin : min 0x7F800000 (u * 2 ^ 23 + k) =
        (u * 2 ^ 23 + k) / 2 ^ 23 * 2 ^ 23 + (u * 2 ^ 23 + k) % 2 ^ 23 := by omega
    obtain ⟨hs, he, hf⟩ := f32_fields (neg := neg) (e := (u * 2 ^ 23 + k) / 2 ^ 23) (f := (u * 2 ^ 23 + k) % 2 ^ 23)
      (by omega) (Nat.mod_lt _ (by decide))
    rw [← hmin, ← hb] at hs he hf
    have hexp : f32Exp b < 255 := by omega
    exact ⟨hs, .inl ⟨(not_nan_not_inf_of_exp_lt hexp).2, f32MagUnits_of_fields ⟨hlt, hu⟩ (by omega)⟩⟩

/-- The integer encoder's N is that of the exact value (rule R81). -/
theorem encN_eq_encNQ (p : Params) (b : Word32) : encN p (f32Units b) = encNQ p (val32 b) := by
  have hscaled : val32 b * 2 ^ p.fracBits = ((f32Units b * 2 ^ p.fracBits : ℤ) : ℚ) / (f32One : ℕ) := by
    rw [val32_eq_units, f32One]
    push_cast
    ring
  have hrange := nMin_le_nMax p
  rw [encN, encNQ, clamp, hscaled, roundHalfAwayQ_div _ (by decide)]
  omega

/-- A value of at least 2^128 after scaling is beyond NMAX, and its negation beyond NMIN (rule R83). -/
theorem encNQ_of_huge {p : Params} {x : ℚ} (h : 2 ^ 128 ≤ x * 2 ^ p.fracBits) :
    encNQ p x = p.nMax ∧ encNQ p (-x) = p.nMin := by
  have hcast : (2 ^ 128 : ℚ) = ((2 ^ 128 : ℤ) : ℚ) := by norm_num
  have hround := roundHalfAwayQ_mono h
  rw [hcast, roundHalfAwayQ_intCast] at hround
  have hmin := nMin_eq p
  have hmax : p.nMax < 2 ^ 128 := by
    obtain ⟨pr, fb⟩ := p
    cases pr <;> simp [Params.nMax, Params.tempBits, Profile.tempBits]
  have hpos := nMax_nonneg p
  rw [encNQ, encNQ, neg_mul, roundHalfAwayQ_neg]
  omega

/-- The value of a pattern is its magnitude in units, with its sign (rule R12). -/
theorem val32_eq_magUnits (b : Word32) :
    val32 b = if f32Sign b then -((f32MagUnits b : ℚ) / 2 ^ 149) else (f32MagUnits b : ℚ) / 2 ^ 149 := by
  rw [val32_eq_units, f32Units]
  split <;> push_cast <;> ring

/-- The product in binary32 is exact, or an infinity of its sign (rule R91): scaling by 2^FB keeps 24 significant
bits. -/
theorem product_cases (p : Params) (a : Word32) :
    let b := f32Nearest (f32Sign a) (f32MagUnits a * 2 ^ p.fracBits) f32One
    (isInf32 b = false ∧ f32Units b = f32Units a * 2 ^ p.fracBits) ∨
    (isInf32 b = true ∧ f32Sign b = f32Sign a ∧ 2 ^ 277 ≤ f32MagUnits a * 2 ^ p.fracBits) := by
  obtain ⟨k, u, ⟨hlt, -⟩, hmag, -⟩ := f32MagUnits_eq a
  obtain ⟨k', u', hsig, hscaled⟩ := exists_isSignificand_mul_two_pow hlt (u + p.fracBits)
  rw [pow_add, ← mul_assoc, ← hmag] at hscaled
  rw [hscaled]
  obtain ⟨hsign, ⟨hfin, hexact⟩ | ⟨hinf, hhuge⟩⟩ := f32Nearest_cases (f32Sign a) hsig
  · refine .inl ⟨hfin, ?_⟩
    rw [f32Units, hsign, hexact, ← hscaled, f32Units]
    split <;> push_cast <;> ring
  · exact .inr ⟨hinf, hsign, hhuge⟩

/-- Settles O33: an exact product goes through the same rounding, and where it overflows the exact value is beyond the
range as well. -/
theorem binaryProductGivesTheSameInteger : Obligations.BinaryProductGivesTheSameInteger := by
  intro p a _ _
  obtain ⟨hfin, hunits⟩ | ⟨hinf, hsign, hhuge⟩ := product_cases p a
  · simp only [encNBinary32, hfin, hunits]
    exact encN_eq_encNQ p a
  · have hq : (2 : ℚ) ^ 128 ≤ (f32MagUnits a : ℚ) / 2 ^ 149 * 2 ^ p.fracBits := by
      have hcast : (2 : ℚ) ^ 277 ≤ f32MagUnits a * 2 ^ p.fracBits := by exact_mod_cast hhuge
      rw [div_mul_eq_mul_div, le_div_iff₀ (by positivity), ← pow_add]
      exact hcast
    obtain ⟨hmax, hmin⟩ := encNQ_of_huge hq
    simp only [encNBinary32, hinf, hsign, if_true, val32_eq_magUnits]
    split
    · exact hmin.symm
    · exact hmax.symm

end Sys2Proof.Machine
end

section
/-! PROOFS. The merge of ENC_CFG field by field, and the laws of ENC_CFG and DEC_CFG (rules R102, R105). -/

namespace Sys2Proof.Machine

/-! ### The merge -/

/-- Each bit of the field mask: set where the field of that bit is updated (rule R64). -/
theorem getLsbD_fieldMask (uSd uMode uPol uFq : Bool) (i : Nat) : (fieldMask uSd uMode uPol uFq).getLsbD i =
    decide ((i = 0 ∧ uSd) ∨ (i = 1 ∧ uMode) ∨ (i = 2 ∧ uPol) ∨ ((i = 3 ∨ i = 4) ∧ uFq)) := by
  obtain hi | hi := Nat.lt_or_ge i 8
  · revert uSd uMode uPol uFq
    interval_cases i <;> decide
  · rw [BitVec.getLsbD_of_ge _ _ hi]
    grind

/-- Each bit of a merge: V's where the mask is set, the current one elsewhere (rule R102). -/
theorem getLsbD_mergeFields (c v m : Byte) (i : Nat) :
    (mergeFields c v m).getLsbD i = if m.getLsbD i then v.getLsbD i else c.getLsbD i := by
  obtain hi | hi := Nat.lt_or_ge i 8
  · rw [mergeFields, BitVec.getLsbD_or, BitVec.getLsbD_and, BitVec.getLsbD_and, BitVec.getLsbD_not]
    cases m.getLsbD i <;> simp [hi]
  · simp only [BitVec.getLsbD_of_ge _ _ hi, ite_self]

/-- Settles O36: the bits of the merge under the field mask. -/
theorem encCfgMergesFieldByField : Obligations.EncCfgMergesFieldByField := by
  intro s q rest uSd uMode uPol uFq v hreq
  refine ⟨_, by rw [exec_cons hreq, respondTo, encCfgResponse_eq], fun i => ?_⟩
  obtain hi | hi := Nat.lt_or_ge i 8
  · have hwide : i < 32 := by omega
    rw [BitVec.getLsbD_setWidth, getLsbD_mergeFields, getLsbD_fieldMask, getLsbD_cfg q hi, decide_eq_true hwide,
      Bool.true_and, if_neg (Nat.not_le.2 hi)]
    simp only [decide_eq_true_eq]
  · rw [BitVec.getLsbD_setWidth, BitVec.getLsbD_of_ge _ _ hi, Bool.and_false, if_pos hi]

/-- A merge keeps the bits outside its mask (rule R105 (a)). -/
theorem mergeFields_and_of_disjoint {m f : Byte} (h : m &&& f = 0#8) (c v : Byte) :
    mergeFields c v m &&& f = c &&& f := by
  apply BitVec.eq_of_getLsbD_eq
  intro i hi
  have hbit := congrArg (BitVec.getLsbD · i) h
  simp only [BitVec.getLsbD_and, BitVec.getLsbD_zero] at hbit
  rw [BitVec.getLsbD_and, BitVec.getLsbD_and, getLsbD_mergeFields]
  grind

/-- A merge takes the bits inside its mask from V (rule R105 (b)). -/
theorem mergeFields_and_of_subset {m f : Byte} (h : m &&& f = f) (c v : Byte) :
    mergeFields c v m &&& f = v &&& f := by
  apply BitVec.eq_of_getLsbD_eq
  intro i hi
  have hbit := congrArg (BitVec.getLsbD · i) h
  simp only [BitVec.getLsbD_and] at hbit
  rw [BitVec.getLsbD_and, BitVec.getLsbD_and, getLsbD_mergeFields]
  grind

/-- A merge under the empty mask changes nothing (rule R105 (c)). -/
theorem mergeFields_zero (c v : Byte) : mergeFields c v 0#8 = c := by
  apply BitVec.eq_of_getLsbD_eq
  intro i hi
  simp [getLsbD_mergeFields]

/-- A merge done twice is a merge done once (rule R105 (d)). -/
theorem mergeFields_idem (c v m : Byte) : mergeFields (mergeFields c v m) v m = mergeFields c v m := by
  apply BitVec.eq_of_getLsbD_eq
  intro i hi
  simp only [getLsbD_mergeFields]
  split <;> rfl

/-- Merges under disjoint masks commute (rule R105 (e)). -/
theorem mergeFields_comm {m m' : Byte} (h : m &&& m' = 0#8) (c v v' : Byte) :
    mergeFields (mergeFields c v m) v' m' = mergeFields (mergeFields c v' m') v m := by
  apply BitVec.eq_of_getLsbD_eq
  intro i hi
  have hbit := congrArg (BitVec.getLsbD · i) h
  simp only [BitVec.getLsbD_and, BitVec.getLsbD_zero] at hbit
  simp only [getLsbD_mergeFields]
  grind

/-! ### The requests of the laws -/

/-- The field mask of the update enables U (rule R64). -/
def maskOf (u : BitVec 4) : Byte := fieldMask (u.getLsbD 0) (u.getLsbD 1) (u.getLsbD 2) (u.getLsbD 3)

/-- The ENC_CFG with update enables U and values V[4:0]. -/
def encCfgOf (u : BitVec 4) (v : BitVec 5) : Instr :=
  .encCfg (u.getLsbD 0) (u.getLsbD 1) (u.getLsbD 2) (u.getLsbD 3) (v.setWidth 8)

/-- The word of an ENC_CFG with U and V[4:0] (rule R63). -/
theorem encode_encCfgOf (u : BitVec 4) (v : BitVec 5) : encode (encCfgOf u v) = 0#3 ++ v ++ u ++ 0x5#4 := by
  apply BitVec.eq_of_getLsbD_eq
  intro i hi
  rw [encCfgOf, getLsbD_encode_encCfg]
  simp only [BitVec.getLsbD_append, BitVec.getLsbD_setWidth, BitVec.getLsbD_zero]
  interval_cases i <;> simp

theorem decode_encCfgOf (u : BitVec 4) (v : BitVec 5) : decode (0#3 ++ v ++ u ++ 0x5#4) = .ok (encCfgOf u v) := by
  have hwf : (encCfgOf u v).wellFormed = true := by
    rw [encCfgOf, Instr.wellFormed, beq_iff_eq]
    revert v
    decide
  rw [← encode_encCfgOf, decode_encode hwf]

/-- The Config operand of a request made from a Config value is that value (rule R65). -/
theorem cfg_setWidth (cmd : Word16) (c : Byte) : Request.cfg ⟨cmd, c.setWidth 32, 0⟩ = c := by
  rw [Request.cfg, BitVec.extractLsb'_setWidth_of_le (by decide), BitVec.extractLsb'_eq_self]

/-- The ENC_CFG of the laws is the merge under the mask of U (rules R102, R105). -/
theorem mergedConfig_eq (p : Params) (c : Byte) (u : BitVec 4) (v : BitVec 5) :
    mergedConfig p c u v = mergeFields c (v.setWidth 8) (maskOf u) := by
  have hresp : respond p ⟨0#3 ++ v ++ u ++ 0x5#4, c.setWidth 32, 0⟩ =
      ⟨(mergeFields c (v.setWidth 8) (maskOf u)).setWidth 32, .ok⟩ := by
    rw [respond_of_decode (decode_encCfgOf u v), encCfgOf, respondTo, encCfgResponse_eq, cfg_setWidth, maskOf]
  rw [mergedConfig, hresp, BitVec.extractLsb'_setWidth_of_le (by decide), BitVec.extractLsb'_eq_self]

/-- DEC_CFG reports SD, MODE, POL and FQ at their Config positions (rules R66, R101). -/
theorem getLsbD_reportedConfig (p : Params) (c : Byte) {i : Nat} (hi : i < 5) :
    (reportedConfig p c).getLsbD i = c.getLsbD i := by
  have hresp : respond p ⟨0x0004, c.setWidth 32, 0⟩ = .done (Snapshot.ofConfig p c).pack := by
    rw [respond_of_plain (i := .decCfg) (q := ⟨0x0004, c.setWidth 32, 0⟩) (by decide) rfl, respondTo, decCfgResponse,
      cfg_setWidth]
  rw [reportedConfig, hresp, done_result, getLsbD_pack]
  interval_cases i <;> simp [Snapshot.ofConfig]

/-! ### The laws -/

/-- The mask of U holds a field where its U bit is set, and none of its bits otherwise (rule R64). -/
theorem maskOf_and_field : ∀ (u : BitVec 4), ∀ f ∈ [(0, 0x01#8), (1, 0x02#8), (2, 0x04#8), (3, 0x18#8)],
    maskOf u &&& f.2 = if u.getLsbD f.1 then f.2 else 0#8 := by
  decide

/-- No U bit updates the reserved bits or ALERT (rule R64). -/
theorem maskOf_and_upper (u : BitVec 4) : maskOf u &&& 0xE0#8 = 0#8 := by
  revert u
  decide

/-- Disjoint update enables have disjoint masks. -/
theorem maskOf_and_maskOf {u u' : BitVec 4} (h : u &&& u' = 0#4) : maskOf u &&& maskOf u' = 0#8 := by
  revert u u'
  decide

/-- Settles O40: the laws of the merge under the mask of U, and the bits that DEC_CFG reports. -/
theorem configFieldLaws : Obligations.ConfigFieldLaws := by
  intro p c u u' v v'
  have hupdate {u : BitVec 4} {f : ℕ × Byte} (hf : f ∈ [(0, 0x01#8), (1, 0x02#8), (2, 0x04#8), (3, 0x18#8)])
      (hu : u.getLsbD f.1 = true) : maskOf u &&& f.2 = f.2 := by rw [maskOf_and_field u f hf, if_pos hu]
  simp only [mergedConfig_eq]
  refine ⟨fun f hf => ⟨fun hu => ?preserved, fun hu => ?updated, fun hu => ?lastUpdate⟩, ?upper, ?identity,
    mergeFields_idem c _ _, fun hdisj => mergeFields_comm (maskOf_and_maskOf hdisj) c _ _,
    fun m => ⟨?mode, ?faultQueue⟩, ?reported⟩
  case preserved =>
    refine mergeFields_and_of_disjoint ?_ c _
    rw [maskOf_and_field u f hf, hu, if_neg Bool.false_ne_true]
  case updated => exact mergeFields_and_of_subset (hupdate hf hu) c _
  case lastUpdate => exact mergeFields_and_of_subset (hupdate hf hu) _ _
  case upper => exact mergeFields_and_of_disjoint (maskOf_and_upper u) c _
  case identity => exact mergeFields_zero c _
  case mode =>
    rw [getLsbD_reportedConfig p _ (by decide), getLsbD_mergeFields]
    cases m <;> rfl
  case faultQueue =>
    apply BitVec.eq_of_getLsbD_eq
    intro i hi
    have hfq : 3 + i < 5 := by omega
    have hmask : (maskOf 0b0010#4).getLsbD (3 + i) = false := by interval_cases i <;> rfl
    rw [BitVec.getLsbD_extractLsb', BitVec.getLsbD_extractLsb', getLsbD_reportedConfig p _ hfq, getLsbD_mergeFields,
      hmask, if_neg Bool.false_ne_true]
  case reported =>
    apply BitVec.eq_of_getLsbD_eq
    intro i hi
    rw [BitVec.getLsbD_setWidth, BitVec.getLsbD_and, BitVec.getLsbD_and]
    obtain hlow | hhigh := Nat.lt_or_ge i 5
    · rw [getLsbD_reportedConfig p _ hlow]
      interval_cases i <;> simp
    · interval_cases i <;> simp

end Sys2Proof.Machine
end

section
/-! PROOFS. The constants at the default scale, the encoding examples, and the bytes of a register. -/

namespace Sys2Proof.Machine

/-- A raw value without padding is its N times 2^SH, as a signed word (rules R28, R80). -/
theorem sext16_of_padding_zero {p : Params} {raw : Word16} (h : raw.toNat % 2 ^ p.shift = 0) :
    sext16 raw = decN p raw * 2 ^ p.shift := by
  have hword : (2 : ℤ) ^ p.shift ∣ 2 ^ 16 := pow_dvd_pow 2 (Nat.sub_le 16 p.tempBits)
  have hnat : (2 : ℤ) ^ p.shift ∣ raw.toNat := by exact_mod_cast Nat.dvd_of_mod_eq_zero h
  have hint : (2 : ℤ) ^ p.shift ∣ raw.toInt := by
    rw [BitVec.toInt_eq_toNat_cond]
    split
    · exact hnat
    · exact dvd_sub hnat (by exact_mod_cast hword)
  rw [decN_eq_sshiftRight, BitVec.toInt_sshiftRight, Int.shiftRight_eq_div_pow, sext16]
  exact (Int.ediv_mul_cancel (by exact_mod_cast hint)).symm

/-- Settles O3: the table by computation, the weight of a raw unit from N. -/
theorem derivedConstantsAtTheDefaultScale : Obligations.DerivedConstantsAtTheDefaultScale := by
  refine ⟨?base, ?varB, ?varC, fun pr raw hpad => ?weight⟩
  case base => decide +kernel
  case varB => decide +kernel
  case varC => decide +kernel
  case weight =>
    rw [sext16_of_padding_zero hpad, decTQ_eq, Int.cast_mul, Int.cast_pow, Int.cast_ofNat, two_pow_shift_default rfl,
      stepQ]
    ring

/-- Settles O4 by computation; the decimal literals round to the patterns of the table. -/
theorem assemblyExamplesGiveTheirWords : Obligations.AssemblyExamplesGiveTheirWords := by
  refine ⟨rfl, ?encTemp, ?encPair, rfl, rfl, rfl, rfl, rfl, rfl⟩
  case encTemp => decide
  case encPair => decide

/-- A 16-bit value is its two bytes, bits 15:8 first (rule R43). -/
theorem highByte_append_lowByte (v : Word16) : highByte v ++ lowByte v = v := by
  rw [highByte, lowByte, BitVec.extractLsb'_append_extractLsb'_eq_extractLsb' (by decide), BitVec.extractLsb'_eq_self]

/-- The bytes of a 16-bit register by byte order (rule R43). -/
theorem toBytes_of_regWidth_two {r : RegName} (h : regWidth r = 2) (o : ByteOrder) (v : Word16) :
    toBytes o r v = if o = .msbFirst then [highByte v, lowByte v] else [lowByte v, highByte v] := by
  cases o <;> simp [toBytes, h]

/-- The host assembles a 16-bit register's bytes back (rule R43). -/
theorem ofBytes_toBytes {r : RegName} (h : regWidth r = 2) (o : ByteOrder) (v : Word16) :
    ofBytes o (toBytes o r v) = v := by
  rw [toBytes_of_regWidth_two h]
  cases o <;> exact highByte_append_lowByte v

/-- Config is moved as its one byte (rule R42). -/
theorem toBytes_config (o : ByteOrder) (v : Word16) : toBytes o .config v = [lowByte v] := rfl

/-- The host takes Config from its one byte (rule R42). -/
theorem ofBytes_toBytes_config (o : ByteOrder) (v : Word16) :
    ofBytes o (toBytes o .config v) = (lowByte v).setWidth 16 := rfl

/-- Settles O50: the two bytes of a 16-bit register in each order. -/
theorem registerBytesAssembleBack : Obligations.RegisterBytesAssembleBack := by
  intro r v hr
  have hwidth : regWidth r = 2 := by
    revert r
    decide
  exact ⟨fun o => ofBytes_toBytes hwidth o v, toBytes_of_regWidth_two hwidth .msbFirst v,
    toBytes_of_regWidth_two hwidth .lsbFirst v⟩

end Sys2Proof.Machine
end

section
/-! PROOFS. The host's operations: what one transfer and one request give, and the statements on temperature(),
set_thresholds, os_mode and clear(). -/

namespace Sys2Proof.Machine

/-! ### One transfer -/

/-- No transfer to come fails by choice. -/
abbrev System.TransfersSucceed (y : System) : Prop := ∀ ch ∈ y.choices, ch.fails = false

theorem System.TransfersSucceed.tail {y z : System} (h : y.TransfersSucceed) (hz : z.choices = y.choices.tail) :
    z.TransfersSucceed := by
  intro ch hch
  rw [hz] at hch
  exact h ch (List.mem_of_mem_tail hch)

/-- Every profile's device has every register but Tidle (rule R21). -/
theorem registers_contains {r : RegName} (hr : r ≠ .tidle) (pr : Profile) : pr.registers.contains r = true := by
  cases r with
  | tidle => exact absurd rfl hr
  | temp | config | low | high => cases pr <;> rfl

theorem accessFails_eq_false {y : System} (h : y.TransfersSucceed) {r : RegName} (hr : r ≠ .tidle) :
    y.accessFails r = false := by
  have hchoice : y.choice.fails = false := by
    unfold System.choice
    cases hc : y.choices with
    | nil => rfl
    | cons ch rest => exact h ch (by simp [hc])
  simp only [System.accessFails, hchoice, registers_contains hr, Bool.not_true, Bool.or_false]

/-- The system after a read of a register, whether it succeeds or fails. -/
def System.afterRead (y : System) (r : RegName) : System :=
  y.after (.read (regAddr y.regAddrs r) (regWidth r))
    ((y.device.read y.block.params r y.choice.word).2.latch y.block.params y.choice.latches)

/-- A read gives the assembled bytes, or no value where it fails (rules R43, R124). -/
theorem hostRead_eq (y : System) (r : RegName) : y.hostRead r =
    (if y.accessFails r then .transportError
      else .value (ofBytes y.byteOrder (toBytes y.byteOrder r (y.device.read y.block.params r y.choice.word).1)),
      y.afterRead r) := by
  unfold System.hostRead
  split <;> rfl

@[simp] theorem afterRead_params (y : System) (r : RegName) : (y.afterRead r).block.params = y.block.params := rfl
@[simp] theorem afterRead_transfers (y : System) (r : RegName) :
    (y.afterRead r).transfers = .read (regAddr y.regAddrs r) (regWidth r) :: y.transfers := rfl

@[simp] theorem ask_transfers (y : System) (q : Request) : (y.ask q).2.transfers = y.transfers := rfl
@[simp] theorem ask_device (y : System) (q : Request) : (y.ask q).2.device = y.device := rfl

/-- The result of a response with S = OK is used (rule R146). -/
theorem useResult_done {α : Type} {y : System} {q : Request} {w : Word32} (h : respond y.block.params q = .done w)
    (k : Word32 → System → HostResult α × System) : useResult (y.ask q) k = k w (y.ask q).2 := by
  simp [useResult, h]

/-- A raised status ends the operation (rule R146). -/
theorem useResult_raise {α : Type} {y : System} {q : Request} {st : Status} (hst : st ≠ .ok)
    (h : respond y.block.params q = .raise st) (k : Word32 → System → HostResult α × System) :
    useResult (y.ask q) k = (.error st, (y.ask q).2) := by
  simp [useResult, h, hst]

/-- A write succeeds where no transfer fails (rule R124). -/
theorem hostWrite_fst {y : System} (h : y.TransfersSucceed) {r : RegName} (hr : r ≠ .tidle) (v : Word16) :
    (y.hostWrite r v).1 = .value () := by
  simp [System.hostWrite, accessFails_eq_false h hr]

theorem hostWrite_transfersSucceed {y : System} (h : y.TransfersSucceed) (r : RegName) (v : Word16) :
    (y.hostWrite r v).2.TransfersSucceed :=
  h.tail rfl

theorem andThen_hostWrite {α : Type} {y : System} (h : y.TransfersSucceed) {r : RegName} (hr : r ≠ .tidle) (v : Word16)
    (k : Unit → System → HostResult α × System) : andThen (y.hostWrite r v) k = k () (y.hostWrite r v).2 := by
  rw [← Prod.mk.eta (p := y.hostWrite r v), hostWrite_fst h hr, andThen_value]

/-! ### temperature() -/

/-- The request of a DEC_TEMP line gets the pattern of the raw value (rules R70, R85). -/
theorem respond_assemble_decTemp (p : Params) (raw : Word16) :
    respond p (assemble (.decTemp raw)) = .done (decodedPattern p raw) := by
  have hdone : respond p (assemble (.decTemp raw)) = .done _ :=
    respond_of_plain (i := .decTemp) (q := assemble (.decTemp raw)) (by decide) rfl p
  have hpattern : decodedPattern p raw = (respond p (assemble (.decTemp raw))).result := rfl
  rw [hpattern, hdone, done_result]

/-- temperature() reads Temp and decodes the value the device sampled. -/
theorem temperature_eq {y : System} (h : y.TransfersSucceed) : y.temperature =
    (.value (decodedPattern y.block.params y.choice.word),
      ((y.afterRead .temp).ask (assemble (.decTemp y.choice.word))).2) := by
  rw [System.temperature, hostRead_eq, accessFails_eq_false h (by decide), if_neg Bool.false_ne_true, andThen_value,
    ofBytes_toBytes rfl, Device.read, useResult_done (respond_assemble_decTemp _ _), afterRead_params]

/-- Settles O47: Temp holds the sample, and its pattern the decoded value. -/
theorem temperatureDecodesTheSample : Obligations.TemperatureDecodesTheSample := by
  intro y hwf h
  have hsample : (y.afterRead .temp).device.temp = y.choice.word := latch_temp _ _ _
  rw [temperature_eq h, ask_device, hsample]
  exact ⟨_, rfl, (val32_decodedPattern hwf _).trans (decTQ_eq _ _).symm⟩

/-! ### set_thresholds -/

/-- The request of an ENC_PAIR line on patterns (rules R70, R87). -/
theorem respond_assemble_encPair (p : Params) (v0 v1 : Word32) :
    respond p (assemble (.encPair (.pattern v0) (.pattern v1))) =
      encPairResponse p (assemble (.encPair (.pattern v0) (.pattern v1))) :=
  respond_of_plain (i := .encPair) (q := assemble (.encPair (.pattern v0) (.pattern v1))) (by decide) rfl p

/-- Settles O43: ENC_PAIR raises INVALID_INPUT before any transfer. -/
theorem invalidThresholdsWriteNothing : Obligations.InvalidThresholdsWriteNothing := by
  intro y v0 v1 highFirst hbad
  have hraise : respond y.block.params (assemble (.encPair (.pattern v0) (.pattern v1))) = .raise .invalidInput := by
    rw [respond_assemble_encPair]
    exact if_neg (by rw [Bool.not_eq_true]; exact hbad)
  rw [System.setThresholds, useResult_raise (by decide) hraise]
  exact ⟨rfl, rfl, rfl⟩

/-- The raw value set_thresholds writes to the high register: the encoding of the larger value (rule R87). -/
def highRaw (p : Params) (v0 v1 : Word32) : Word16 := encTQ p (max (val32 v0) (val32 v1))

/-- The raw value set_thresholds writes to the low register: the encoding of the smaller value (rule R87). -/
def lowRaw (p : Params) (v0 v1 : Word32) : Word16 := encTQ p (min (val32 v0) (val32 v1))

/-- The system in which set_thresholds makes its writes: the block has answered ENC_PAIR. -/
def System.askedPair (y : System) (v0 v1 : Word32) : System :=
  (y.ask (assemble (.encPair (.pattern v0) (.pattern v1)))).2

@[simp] theorem askedPair_transfers (y : System) (v0 v1 : Word32) : (y.askedPair v0 v1).transfers = y.transfers := rfl
@[simp] theorem askedPair_regAddrs (y : System) (v0 v1 : Word32) : (y.askedPair v0 v1).regAddrs = y.regAddrs := rfl
@[simp] theorem askedPair_byteOrder (y : System) (v0 v1 : Word32) : (y.askedPair v0 v1).byteOrder = y.byteOrder := rfl

/-- The writes of set_thresholds on finite operands, in the order asked for (rules R53, R146, I15). -/
theorem setThresholds_eq {y : System} (h : y.TransfersSucceed) {v0 v1 : Word32} (h0 : isFinite32 v0 = true)
    (h1 : isFinite32 v1 = true) (highFirst : Bool) : y.setThresholds v0 v1 highFirst =
      if highFirst then
        ((y.askedPair v0 v1).hostWrite .high (highRaw y.block.params v0 v1)).2.hostWrite .low
          (lowRaw y.block.params v0 v1)
      else
        ((y.askedPair v0 v1).hostWrite .low (lowRaw y.block.params v0 v1)).2.hostWrite .high
          (highRaw y.block.params v0 v1) := by
  have hdone : respond y.block.params (assemble (.encPair (.pattern v0) (.pattern v1))) =
      .done (highRaw y.block.params v0 v1 ++ lowRaw y.block.params v0 v1) := by
    rw [respond_assemble_encPair]
    exact encPairResponse_of_finite (q := assemble (.encPair (.pattern v0) (.pattern v1))) h0 h1 _
  have hasked : (y.askedPair v0 v1).TransfersSucceed := h
  rw [System.setThresholds, useResult_done hdone, BitVec.extractLsb'_append_eq_left,
    BitVec.extractLsb'_append_eq_right]
  split
  · exact andThen_hostWrite hasked (by decide) _ _
  · exact andThen_hostWrite hasked (by decide) _ _

@[simp] theorem hostWrite_regAddrs (y : System) (r : RegName) (v : Word16) :
    (y.hostWrite r v).2.regAddrs = y.regAddrs := rfl
@[simp] theorem hostWrite_byteOrder (y : System) (r : RegName) (v : Word16) :
    (y.hostWrite r v).2.byteOrder = y.byteOrder := rfl
@[simp] theorem hostWrite_transfers (y : System) (r : RegName) (v : Word16) : (y.hostWrite r v).2.transfers =
    .write (regAddr y.regAddrs r) (toBytes y.byteOrder r v) :: y.transfers := rfl

/-- An encoding has no padding to mask (rule R80). -/
theorem encTQ_and_tMask (p : Params) (x : ℚ) : encTQ p x &&& p.tMask = encTQ p x := by
  rw [← packN_decN, decN_encTQ, encTQ_eq_packN]

/-- Under its mask a merge is the value merged in. -/
theorem pick16_and (m x y : Word16) : pick16 m x y &&& m = x &&& m := by
  apply BitVec.eq_of_getLsbD_eq
  intro i hi
  simp only [pick16, BitVec.getLsbD_and, BitVec.getLsbD_or, BitVec.getLsbD_not]
  cases m.getLsbD i <;> simp

/-- The device after a write that succeeds, where it keeps its fields (I6). -/
theorem hostWrite_device {y : System} (h : y.TransfersSucceed) (hkeeps : y.keepsFields = true) {r : RegName}
    (hr : r ≠ .tidle) (v : Word16) : (y.hostWrite r v).2.device =
      (y.device.write y.block.params true r (ofBytes y.byteOrder (toBytes y.byteOrder r v)) y.choice.word).latch
        y.block.params y.choice.latches := by
  simp [System.hostWrite, hkeeps, accessFails_eq_false h hr]

/-- The high register holds the temperature field written to it, and the low register what it held. -/
theorem hostWrite_high {y : System} (h : y.TransfersSucceed) (hkeeps : y.keepsFields = true) (v : Word16) :
    (y.hostWrite .high v).2.device.high &&& y.block.params.tMask = v &&& y.block.params.tMask ∧
    (y.hostWrite .high v).2.device.low = y.device.low := by
  rw [hostWrite_device h hkeeps (by decide), ofBytes_toBytes rfl, latch_high, latch_low]
  exact ⟨pick16_and _ _ _, rfl⟩

/-- The low register holds the temperature field written to it, and the high register what it held. -/
theorem hostWrite_low {y : System} (h : y.TransfersSucceed) (hkeeps : y.keepsFields = true) (v : Word16) :
    (y.hostWrite .low v).2.device.low &&& y.block.params.tMask = v &&& y.block.params.tMask ∧
    (y.hostWrite .low v).2.device.high = y.device.high := by
  rw [hostWrite_device h hkeeps (by decide), ofBytes_toBytes rfl, latch_high, latch_low]
  exact ⟨pick16_and _ _ _, rfl⟩

/-- Settles O44: each write stores its half, and keeps the other register. -/
theorem thresholdsAreStoredSorted : Obligations.ThresholdsAreStoredSorted := by
  intro y v0 v1 highFirst h hkeeps h0 h1
  have hasked : (y.askedPair v0 v1).TransfersSucceed := h
  have hkeeps' : (y.askedPair v0 v1).keepsFields = true := hkeeps
  rw [setThresholds_eq h h0 h1, ← encTQ_and_tMask y.block.params (max _ _), ← encTQ_and_tMask y.block.params (min _ _)]
  cases highFirst
  case true =>
    have hsecond := hostWrite_transfersSucceed hasked .high (highRaw y.block.params v0 v1)
    obtain ⟨hhigh, -⟩ := hostWrite_high hasked hkeeps' (highRaw y.block.params v0 v1)
    obtain ⟨hlow, hkept⟩ := hostWrite_low hsecond hkeeps' (lowRaw y.block.params v0 v1)
    exact ⟨hostWrite_fst hsecond (by decide) _, hkept ▸ hhigh, hlow⟩
  case false =>
    have hsecond := hostWrite_transfersSucceed hasked .low (lowRaw y.block.params v0 v1)
    obtain ⟨hlow, -⟩ := hostWrite_low hasked hkeeps' (lowRaw y.block.params v0 v1)
    obtain ⟨hhigh, hkept⟩ := hostWrite_high hsecond hkeeps' (highRaw y.block.params v0 v1)
    exact ⟨hostWrite_fst hsecond (by decide) _, hhigh, hkept ▸ hlow⟩

/-! ### os_mode and clear() -/

/-- The Config byte that the next access reads (rule R29, I4). -/
def System.configByte (y : System) : Byte := pick8 y.block.params.namedMask y.device.config (lowByte y.choice.word)

theorem lowByte_setWidth (c : Byte) : lowByte (c.setWidth 16) = c := by
  rw [lowByte, BitVec.extractLsb'_setWidth_of_le (by decide), BitVec.extractLsb'_eq_self]

/-- A byte zero-extended to a result word, in 16 bits. -/
theorem extractLsb'_setWidth_byte (c : Byte) : (c.setWidth 32).extractLsb' 0 16 = c.setWidth 16 := by
  apply BitVec.eq_of_getLsbD_eq
  intro i hi
  have hwide : i < 32 := by omega
  simp [hi, hwide]

/-- A failed read of Config ends the operation (rule R124). -/
theorem andThen_hostRead_of_fails {α : Type} {y : System} {r : RegName} (h : y.accessFails r = true)
    (k : Word16 → System → HostResult α × System) : andThen (y.hostRead r) k = (.transportError, y.afterRead r) := by
  rw [hostRead_eq, h, if_pos rfl, andThen_transportError]

/-- An operation on Config goes on with the byte read. -/
theorem andThen_hostRead_config {α : Type} {y : System} (h : y.accessFails .config = false)
    (k : Word16 → System → HostResult α × System) :
    andThen (y.hostRead .config) k = k (y.configByte.setWidth 16) (y.afterRead .config) := by
  have hbyte : lowByte (y.device.read y.block.params .config y.choice.word).1 = y.configByte := lowByte_setWidth _
  rw [hostRead_eq, h, if_neg Bool.false_ne_true, andThen_value, ofBytes_toBytes_config, hbyte]

/-- SET_MODE's merge on a Config value (rule R103). -/
def modeSet (c : Byte) (m : Mode) : Byte :=
  mergeFields c (fieldValues none (some m.bit) none none) (fieldMask false true false false)

/-- The request of a SET_MODE line (rules R71, R103). -/
theorem respond_assemble_setMode (p : Params) (c : Byte) (m : Mode) :
    respond p (assemble (.setMode c m)) = .done ((modeSet c m).setWidth 32) := by
  rw [respond_of_decode (decode_assemble_setMode c m), respondTo, encCfgResponse_eq, assemble_setMode_cfg]
  rfl

/-- The system in which os_mode writes Config: the read is made, the others have written, the block has answered. -/
def System.askedMode (y : System) (m : Mode) (others : List Byte) : System :=
  (((y.afterRead .config).othersWrite others).ask (assemble (.setMode y.configByte m))).2

@[simp] theorem askedMode_transfers (y : System) (m : Mode) (others : List Byte) :
    (y.askedMode m others).transfers = (y.afterRead .config).transfers := rfl
@[simp] theorem askedMode_regAddrs (y : System) (m : Mode) (others : List Byte) :
    (y.askedMode m others).regAddrs = y.regAddrs := rfl

/-- os_mode writes the byte it read with MODE replaced (rules R50, R144, R151). -/
theorem osMode_eq {y : System} (h : y.accessFails .config = false) (m : Mode) (others : List Byte) :
    y.osMode m others = (y.askedMode m others).hostWrite .config ((modeSet y.configByte m).setWidth 16) := by
  rw [System.osMode, System.changeFields, andThen_hostRead_config h]
  simp only [lowByte_setWidth]
  rw [useResult_done (respond_assemble_setMode _ _ _), extractLsb'_setWidth_byte, System.askedMode]

/-- The request of a CHK_ALERT line (rules R70, R104). -/
theorem respond_assemble_chkAlert (p : Params) (c : Byte) : respond p (assemble (.chkAlert c)) =
    if p.profile = .varC then .done (if c.getLsbD 5 then 1 else 0) else .raise .unsupportedOperation := by
  have hresp : respond p (assemble (.chkAlert c)) = chkAlertResponse p (assemble (.chkAlert c)) :=
    respond_of_plain (i := .chkAlert) (q := assemble (.chkAlert c)) (by decide) rfl p
  have hbit : (assemble (.chkAlert c)).a.getLsbD 5 = c.getLsbD 5 := by
    simp [assemble, AsmLine.operands]
  rw [hresp, chkAlertResponse_eq, hbit]
  rfl

/-- clear() answers with ALERT of the byte it read on VAR_C, and is refused elsewhere; it makes no other transfer. -/
theorem clear_eq {y : System} (h : y.accessFails .config = false) : y.clear =
    (if y.block.params.profile = .varC then .value (y.configByte.getLsbD 5) else .error .unsupportedOperation,
      ((y.afterRead .config).ask (assemble (.chkAlert y.configByte))).2) := by
  have hresp := respond_assemble_chkAlert y.block.params y.configByte
  rw [System.clear, andThen_hostRead_config h, lowByte_setWidth]
  split
  case isTrue hvarC =>
    rw [if_pos hvarC] at hresp
    rw [useResult_done (y := y.afterRead .config) hresp]
    cases y.configByte.getLsbD 5 <;> rfl
  case isFalse hvarC =>
    rw [if_neg hvarC] at hresp
    rw [useResult_raise (y := y.afterRead .config) (by decide) hresp]

/-- Settles O48: both operations end at the failed read. -/
theorem failedConfigReadIssuesNothing : Obligations.FailedConfigReadIssuesNothing := by
  intro y m others hfails
  have h : y.accessFails .config = true := by rw [System.accessFails, hfails, Bool.true_or]
  rw [System.osMode, System.changeFields, System.clear, andThen_hostRead_of_fails h, andThen_hostRead_of_fails h]
  exact ⟨rfl, rfl, rfl, rfl, rfl, rfl⟩

/-- A write of Config overwrites whatever the device held there. -/
theorem hostWrite_config_overwrites (y : System) (d : Device) (v : Word16) :
    (({ y with device := d } : System).hostWrite .config v).1 = (y.hostWrite .config v).1 ∧
    (({ y with device := d } : System).hostWrite .config v).2.device.config =
      (y.hostWrite .config v).2.device.config := by
  refine ⟨rfl, BitVec.eq_of_getLsbD_eq fun i _ => ?_⟩
  simp only [System.hostWrite, after_device, latch_config]
  rfl

/-- Settles O49: os_mode's write overwrites Config, from the byte read. -/
theorem writesBetweenReadAndWriteAreLost : Obligations.WritesBetweenReadAndWriteAreLost := by
  intro y m others
  cases h : y.accessFails .config with
  | true => simp only [System.osMode, System.changeFields, andThen_hostRead_of_fails h, and_self]
  | false =>
    rw [osMode_eq h, osMode_eq h]
    exact hostWrite_config_overwrites (y.askedMode m []) (y.askedMode m others).device _

/-- Settles O42: the transfers of each operation, in order. -/
theorem hostOperationTransfers : Obligations.HostOperationTransfers := by
  intro y h
  have hconfig : y.accessFails .config = false := accessFails_eq_false h (by decide)
  refine ⟨?temperature, fun v0 v1 h0 h1 => ⟨toBytes y.byteOrder .high (highRaw y.block.params v0 v1),
    toBytes y.byteOrder .low (lowRaw y.block.params v0 v1), ?highLength, ?lowLength, ?highFirst, ?lowFirst⟩,
    fun m others => ⟨modeSet y.configByte m, ?osMode⟩, ?clear⟩
  case temperature => simp [temperature_eq h, regAddr, regWidth]
  case highLength => rw [toBytes_of_regWidth_two rfl]; split <;> rfl
  case lowLength => rw [toBytes_of_regWidth_two rfl]; split <;> rfl
  case highFirst => simp [setThresholds_eq h h0 h1, regAddr]
  case lowFirst => simp [setThresholds_eq h h0 h1, regAddr]
  case osMode =>
    simp [osMode_eq hconfig, toBytes_config, lowByte_setWidth, regAddr, regWidth]
  case clear => simp [clear_eq hconfig, regAddr, regWidth]

/-- The bits of a merge of two bytes. -/
theorem getLsbD_pick8 (m x y : Byte) (i : Nat) :
    (pick8 m x y).getLsbD i = if m.getLsbD i then x.getLsbD i else y.getLsbD i := by
  have hmerge : pick8 m x y = mergeFields y x m := BitVec.or_comm _ _
  rw [hmerge, getLsbD_mergeFields]

/-- The byte read holds the device's named bits (rules R29, R100). -/
theorem getLsbD_configByte (y : System) {i : Nat} (hi : i < 5 ∨ (i = 5 ∧ y.block.params.hasAlert = true)) :
    y.configByte.getLsbD i = y.device.config.getLsbD i := by
  have hnamed : y.block.params.namedMask.getLsbD i = true := by
    rw [Params.getLsbD_namedMask]
    grind
  rw [System.configByte, getLsbD_pick8, hnamed, if_pos rfl]

/-- A read of Config keeps the fields below ALERT (log entry 16). -/
theorem getLsbD_afterRead_config (y : System) {i : Nat} (hi : i < 5) :
    (y.afterRead .config).device.config.getLsbD i = y.device.config.getLsbD i := by
  have hread : (y.device.read y.block.params .config y.choice.word).2.config =
      if y.block.params.hasAlert then pick8 0x20 (highByte y.choice.word) y.configByte else y.configByte := rfl
  have halert : (0x20 : Byte).getLsbD i = false := by interval_cases i <;> rfl
  have hne : i ≠ 5 := by omega
  rw [System.afterRead, after_device, latch_config, hread, apply_ite (BitVec.getLsbD · i), getLsbD_pick8, halert,
    if_neg Bool.false_ne_true, ite_self, getLsbD_configByte y (.inl hi)]
  simp [hne]

/-- Settles O46: ALERT is a named bit on VAR_C, and the read is the only access. -/
theorem clearReportsTheLatchOnce : Obligations.ClearReportsTheLatchOnce := by
  intro y h
  rw [clear_eq (accessFails_eq_false h (by decide))]
  refine ⟨?result, rfl, fun i hi => ?kept⟩
  case result =>
    split
    case isTrue hvarC => rw [getLsbD_configByte y (.inr ⟨rfl, (Params.hasAlert_iff _).2 hvarC⟩)]
    case isFalse => rfl
  case kept =>
    have hlow : i < 5 := by revert i; decide
    exact getLsbD_afterRead_config y hlow

/-- A device that keeps its fields holds the fields below ALERT that were written (I6). -/
theorem getLsbD_hostWrite_config {y : System} (h : y.TransfersSucceed) (hkeeps : y.keepsFields = true) (c : Byte)
    {i : Nat} (hi : i < 5) : (y.hostWrite .config (c.setWidth 16)).2.device.config.getLsbD i = c.getLsbD i := by
  have hmask : (0x1F : Byte).getLsbD i = true := by interval_cases i <;> rfl
  have hne : i ≠ 5 := by omega
  rw [hostWrite_device h hkeeps (by decide), ofBytes_toBytes_config, lowByte_setWidth, latch_config, Device.write,
    if_pos rfl, getLsbD_pick8, hmask, if_pos rfl, lowByte_setWidth]
  simp [hne]

/-- The bits of SET_MODE's merge (rule R103). -/
theorem getLsbD_modeSet (c : Byte) (m : Mode) (i : Nat) :
    (modeSet c m).getLsbD i = if i = 1 then m.bit else c.getLsbD i := by
  have hmode : (fieldValues none (some m.bit) none none).getLsbD 1 = m.bit := by cases m <;> rfl
  rw [modeSet, getLsbD_mergeFields, getLsbD_fieldMask]
  by_cases hi : i = 1
  · simp only [hi, hmode]
    rfl
  · simp [hi]

/-- Settles O45: the byte read holds the named fields, SET_MODE replaces MODE alone, and the device keeps what is
written. -/
theorem osModeKeepsTheOtherFields : Obligations.OsModeKeepsTheOtherFields := by
  intro y m h hkeeps
  have hasked : (y.askedMode m []).TransfersSucceed :=
    System.TransfersSucceed.tail h rfl
  have hbit {i : Nat} (hi : i < 5) : (y.osMode m []).2.device.config.getLsbD i =
      if i = 1 then m.bit else y.device.config.getLsbD i := by
    rw [osMode_eq (accessFails_eq_false h (by decide)), getLsbD_hostWrite_config hasked hkeeps _ hi, getLsbD_modeSet,
      getLsbD_configByte y (.inl hi)]
  refine ⟨?result, hbit (by decide), fun i hi => ?kept⟩
  case result => rw [osMode_eq (accessFails_eq_false h (by decide)), hostWrite_fst hasked (by decide)]
  case kept =>
    obtain ⟨hlow, hne⟩ : i < 5 ∧ i ≠ 1 := by revert i; decide
    rw [hbit hlow, if_neg hne]

end Sys2Proof.Machine
end
